-- ==== Sys2Proof/Word.lean ====
section
/-! DEFINITION. The word types, the stored number type `Num` (finite binary32 values) and complex pairs. -/

namespace Sys2Proof

/-- A command word or register (R8 of 00_scope). -/
abbrev Word := BitVec 32

/-- One of the four fields of a command word (R100 of 30_encoding). -/
abbrev Byte := BitVec 8

/-- The magnitude of `q` counted in units of `2^-149`, the smallest step of binary32
(exact whenever the denominator of `q` divides `2^149`). -/
def binary32Units (q : ℚ) : Nat := q.num.natAbs * (2 ^ 149 / q.den)

/-- `q` is the value of some finite binary32 pattern: a multiple of `2^-149` with at most 24 significant
bits, below `2^128` (R75 of 20_memory: "1 sign bit, 8 exponent bits, 23 fraction bits"). -/
def storable (q : ℚ) : Bool :=
  2 ^ 149 % q.den == 0 && decide (binary32Units q < 2 ^ 277)
    && binary32Units q % 2 ^ (Nat.log2 (binary32Units q) - 23) == 0

/-- `Num` (R5 of 00_scope) as this model stores it: a real number that the storage format binary32 holds exactly (R6 of 00_scope, D2).
There is one zero, as under the reference instance (U12; log 1). -/
structure Number where
  val : ℚ
  fits : storable val = true
deriving DecidableEq, Repr

/-- A complex value, real part first (R9 of 00_scope, R71 of 20_memory). -/
structure Cplx (α : Type) where
  re : α
  im : α
deriving DecidableEq, Repr

end Sys2Proof
end

