-- ==== Sys2Proof/Config.lean ====
section
/-! DEFINITION. What an implementation fixes (R5 of 00_scope, U11) and the free values: opaque constants
with no body, of which no proof can know more than the bound built into their type. -/

namespace Sys2Proof

/-- The arithmetic operations whose result a finite number type may have to round (R6 of 00_scope, U10). -/
inductive NumOp
  | add | sub | mul | div | neg | sqrt | atan2 | cos | sin | integer
deriving DecidableEq, Repr

/-- Selects `LOGN_MAX`, "OPEN, `1 <= LOGN_MAX <= 16`" (R5; log 5). -/
opaque Config.lognMaxIndex : Fin 16

/-- Selects `PYR_MAX`, "OPEN, `1 <= PYR_MAX <= 32`" (R5; log 5). -/
opaque Config.pyrMaxIndex : Fin 32

/-- Selects `CFG_EPS` among the stored numbers with `0 < CFG_EPS <= 1/8`: the positive binary32 patterns from
`0x00000001` to `0x3E000000` (R5; log 5). -/
opaque Config.epsIndex : Fin 0x3E000000

/-- Selects the stored value of `pi` among the binary32 numbers in `[3, 4)` (R14; log 3). -/
opaque Config.piIndex : BitVec 22

/-- The result of an operation whose exact result is not storable: a function of the operation and its operands
(R6: "each depends on its operands alone"; U10; log 2). A one-operand operation passes 0 as its second operand. -/
opaque Config.inexact : NumOp → ℚ → ℚ → Word

/-- `GRADMAG`, the "local spectral magnitude gradient" (R195 of 42, U8; log 6): magnitudes in row-major order,
`u`, `v`, `N`. -/
opaque Config.gradMag : List ℚ → Nat → Nat → Nat → Word

/-- The arbitrary content of an element that has not been written (U1; log 8): the epoch, the element's address,
and which part (0 the sample, real part or table integer; 1 the imaginary part). -/
opaque Config.unwritten : Nat → Nat → Nat → Word

/-- The word returned by a refused window read (U3; log 9), drawn anew at each such read. -/
opaque Config.refusedRead : Nat → Word

/-- What the transitional `STATUS` fields show while `BUSY = 1` (U13; log 11), drawn anew at each such read. -/
opaque Config.transit : Nat → Nat → Nat

/-- `LOGN` while it is undefined (U2; log 14), drawn anew each time a session ends. -/
opaque Config.undefinedLogn : Nat → Fin 17

/-- Selects `TOL`, a "positive real" of a finite `Num` (R5; log 25): numerator and denominator, each less one. -/
opaque Config.tolParts : Nat × Nat

/-- The value read from a numeric register that holds no finite number, in states no run reaches (U7; log 16). -/
opaque Config.notFinite : Word → Word

/-- `TOL`: the tolerance of the properties of DOC0 §8 under the machine's finite `Num` (R5; log 25). -/
def Config.tol : ℚ := mkRat (Config.tolParts.1 + 1 : Nat) (Config.tolParts.2 + 1)

/-- `LOGN_MAX`: the largest `LOGN` the buffer storage holds (R5). -/
def Config.lognMax : Nat := Config.lognMaxIndex.val + 1

/-- `PYR_MAX`: the largest number of pyramid levels the buffer file holds (R5). -/
def Config.pyrMax : Nat := Config.pyrMaxIndex.val + 1

end Sys2Proof
end

