-- ==== Sys2Proof/Syntax.lean ====
section
/-! DEFINITION. The commands (one constructor per row of the opcode table) and the names of the buffers. -/

namespace Sys2Proof

/-- The complete enumeration of operations (R104 of 30_encoding). Buffer operands are the identifier bytes of the
command word in the order `d`, `a`, `b`; `s` and `level` are the 8-bit immediate (R102). Whether a byte names a
buffer of the required kind is a check of the command (R108), not of its syntax. -/
inductive Instr
  | nop
  | init
  | shutdown
  | frame
  | tblBrev
  | tblTwid
  | widen (d a : Byte)
  | center (d a : Byte)
  | conj (d a : Byte)
  | scale (d a : Byte)
  | toMag (d a : Byte)
  | toPhase (d a : Byte)
  | toReal (d a : Byte)
  | copyP (d a : Byte)
  | copyS (d a : Byte)
  | zero (d : Byte)
  | add (d a b : Byte)
  | mulM (d a b : Byte)
  | brevRow (d a : Byte)
  | brevCol (d a : Byte)
  | bflyRow (d a s : Byte)
  | bflyCol (d a s : Byte)
  | fftFwd (d a : Byte)
  | fftInv (d a : Byte)
  | pamp (d a b : Byte)
  | genMask (d level : Byte)
  | genFilt
deriving DecidableEq, Repr

/-- The buffers of kind P (R28 of 10_state). A level counts to 32, the largest `PYR_MAX`. -/
inductive Plane
  | lin | lprev | lout | diag
  | mask (level : Fin 32)
deriving DecidableEq, Repr

/-- The buffers of kind S (R28 of 10_state). -/
inductive Spectrum
  | w0 | w1 | scur | sprv | smod
  | bcur (level : Fin 32)
  | bprv (level : Fin 32)
  | bprc (level : Fin 32)
deriving DecidableEq, Repr

/-- The two tables (R28, R30 of 10_state). -/
inductive Table
  | brt | twt
deriving DecidableEq, Repr

end Sys2Proof
end

