-- ==== Sys2Proof/Decode.lean ====
section
/-! DEFINITION. Decoding and encoding of command words (30_encoding): checks 1 and 2 of R108, total on any bytes. -/

namespace Sys2Proof

/-- Why a word is no command; both are E_ILLCMD (R108, R109). -/
inductive DecodeError
  /-- Check 1: the opcode is not in R104. -/
  | reservedOpcode (op : Byte)
  /-- Check 2: a field that the format does not use is not zero. -/
  | unusedField (op : Byte)
  /-- Fewer bytes than a command word has. -/
  | truncated
deriving DecidableEq, Repr

/-! ## The four fields (R100) -/

def opField (w : Word) : Byte := w.extractLsb' 0 8
def dField (w : Word) : Byte := w.extractLsb' 8 8
def aField (w : Word) : Byte := w.extractLsb' 16 8
def bField (w : Word) : Byte := w.extractLsb' 24 8

/-- "`(b << 24) or (a << 16) or (d << 8) or op`" (R110). -/
def packWord (b a d op : Byte) : Word := b ++ a ++ d ++ op

/-! ## The formats (R101): the fields a format uses, the others zero -/

def formatZ (w : Word) (i : Instr) : Except DecodeError Instr :=
  if dField w = 0 ∧ aField w = 0 ∧ bField w = 0 then .ok i else .error (.unusedField (opField w))

def formatD (w : Word) (i : Byte → Instr) : Except DecodeError Instr :=
  if aField w = 0 ∧ bField w = 0 then .ok (i (dField w)) else .error (.unusedField (opField w))

def formatDA (w : Word) (i : Byte → Byte → Instr) : Except DecodeError Instr :=
  if bField w = 0 then .ok (i (dField w) (aField w)) else .error (.unusedField (opField w))

/-- Formats DAB and DAI use all four fields. -/
def formatDAB (w : Word) (i : Byte → Byte → Byte → Instr) : Except DecodeError Instr :=
  .ok (i (dField w) (aField w) (bField w))

def formatDI (w : Word) (i : Byte → Byte → Instr) : Except DecodeError Instr :=
  if aField w = 0 then .ok (i (dField w) (bField w)) else .error (.unusedField (opField w))

/-- The opcode map (R104). -/
def decode (w : Word) : Except DecodeError Instr :=
  match (opField w).toNat with
  | 0x00 => formatZ w .nop
  | 0x01 => formatZ w .init
  | 0x02 => formatZ w .shutdown
  | 0x03 => formatZ w .frame
  | 0x08 => formatZ w .tblBrev
  | 0x09 => formatZ w .tblTwid
  | 0x10 => formatDA w .widen
  | 0x11 => formatDA w .center
  | 0x12 => formatDA w .conj
  | 0x13 => formatDA w .scale
  | 0x14 => formatDA w .toMag
  | 0x15 => formatDA w .toPhase
  | 0x16 => formatDA w .toReal
  | 0x17 => formatDA w .copyP
  | 0x18 => formatDA w .copyS
  | 0x19 => formatD w .zero
  | 0x1A => formatDAB w .add
  | 0x1B => formatDAB w .mulM
  | 0x20 => formatDA w .brevRow
  | 0x21 => formatDA w .brevCol
  | 0x22 => formatDAB w .bflyRow
  | 0x23 => formatDAB w .bflyCol
  | 0x28 => formatDA w .fftFwd
  | 0x29 => formatDA w .fftInv
  | 0x30 => formatDAB w .pamp
  | 0x31 => formatDI w .genMask
  | 0x32 => formatZ w .genFilt
  | _ => .error (.reservedOpcode (opField w))

/-- The word whose bytes in rising address order are `b0 b1 b2 b3`: little-endian (R71 of 20_memory). -/
def wordOfBytes (b0 b1 b2 b3 : Byte) : Word := packWord b3 b2 b1 b0

/-- Decode the command at the head of a list of bytes, and give the rest of the list. -/
def decodeBytes : List Byte → Except DecodeError (Instr × List Byte)
  | b0 :: b1 :: b2 :: b3 :: rest =>
    match decode (wordOfBytes b0 b1 b2 b3) with
    | .ok i => .ok (i, rest)
    | .error e => .error e
  | _ => .error .truncated

/-- The bytes of a word in rising address order (R71). -/
def bytesOfWord (w : Word) : List Byte := [opField w, dField w, aField w, bField w]

/-! ## The encoder (R104, R110) -/

def encode : Instr → Word
  | .nop => packWord 0 0 0 0x00
  | .init => packWord 0 0 0 0x01
  | .shutdown => packWord 0 0 0 0x02
  | .frame => packWord 0 0 0 0x03
  | .tblBrev => packWord 0 0 0 0x08
  | .tblTwid => packWord 0 0 0 0x09
  | .widen d a => packWord 0 a d 0x10
  | .center d a => packWord 0 a d 0x11
  | .conj d a => packWord 0 a d 0x12
  | .scale d a => packWord 0 a d 0x13
  | .toMag d a => packWord 0 a d 0x14
  | .toPhase d a => packWord 0 a d 0x15
  | .toReal d a => packWord 0 a d 0x16
  | .copyP d a => packWord 0 a d 0x17
  | .copyS d a => packWord 0 a d 0x18
  | .zero d => packWord 0 0 d 0x19
  | .add d a b => packWord b a d 0x1A
  | .mulM d a b => packWord b a d 0x1B
  | .brevRow d a => packWord 0 a d 0x20
  | .brevCol d a => packWord 0 a d 0x21
  | .bflyRow d a s => packWord s a d 0x22
  | .bflyCol d a s => packWord s a d 0x23
  | .fftFwd d a => packWord 0 a d 0x28
  | .fftInv d a => packWord 0 a d 0x29
  | .pamp d a b => packWord b a d 0x30
  | .genMask d i => packWord i 0 d 0x31
  | .genFilt => packWord 0 0 0 0x32

/-- One row of the opcode table: the mask and match of R105. -/
structure OpcodeRow where
  opMask : Word
  pattern : Word
deriving DecidableEq, Repr

/-- The rows of R104 with their masks by format (R105). -/
def opcodeRows : List OpcodeRow :=
  [⟨0xFFFFFFFF, 0x00⟩, ⟨0xFFFFFFFF, 0x01⟩, ⟨0xFFFFFFFF, 0x02⟩, ⟨0xFFFFFFFF, 0x03⟩, ⟨0xFFFFFFFF, 0x08⟩,
   ⟨0xFFFFFFFF, 0x09⟩, ⟨0xFF0000FF, 0x10⟩, ⟨0xFF0000FF, 0x11⟩, ⟨0xFF0000FF, 0x12⟩, ⟨0xFF0000FF, 0x13⟩,
   ⟨0xFF0000FF, 0x14⟩, ⟨0xFF0000FF, 0x15⟩, ⟨0xFF0000FF, 0x16⟩, ⟨0xFF0000FF, 0x17⟩, ⟨0xFF0000FF, 0x18⟩,
   ⟨0xFFFF00FF, 0x19⟩, ⟨0x000000FF, 0x1A⟩, ⟨0x000000FF, 0x1B⟩, ⟨0xFF0000FF, 0x20⟩, ⟨0xFF0000FF, 0x21⟩,
   ⟨0x000000FF, 0x22⟩, ⟨0x000000FF, 0x23⟩, ⟨0xFF0000FF, 0x28⟩, ⟨0xFF0000FF, 0x29⟩, ⟨0x000000FF, 0x30⟩,
   ⟨0x00FF00FF, 0x31⟩, ⟨0xFFFFFFFF, 0x32⟩]

/-- A word selects a row when `(w and mask) = match` (R105). -/
def OpcodeRow.selects (r : OpcodeRow) (w : Word) : Bool := w &&& r.opMask == r.pattern

/-- What the decoder reads from the bits `w` of a table row, laid out as bytes (R71). -/
def decodeTableWord (nbits w : Nat) : Option Instr :=
  match decodeBytes (bytesOfWord (BitVec.ofNat 32 (w % 2 ^ nbits))) with
  | .ok (i, _) => some i
  | .error _ => none

end Sys2Proof
end

