-- ==== Sys2Proof/Machine/Numerics.lean ====
section
/-! DEFINITION. The `Numerics` record (R6 of 00_scope), complex arithmetic over it (R9), the storage format binary32
(R75 of 20_memory), and the record of the binary32 numbers. -/

namespace Sys2Proof.Machine

/-- "a record `Numerics` with the operations `add sub mul div neg sqrt atan2 cos sin ofNat lt`, of which the machine
assumes nothing except that each depends on its operands alone" (R6). The rules are written once, over any such
record. -/
structure Numerics (α : Type) where
  add : α → α → α
  sub : α → α → α
  mul : α → α → α
  div : α → α → α
  neg : α → α
  sqrt : α → α
  atan2 : α → α → α
  cos : α → α
  sin : α → α
  ofNat : Nat → α
  lt : α → α → Bool

/-! ## Numbers and complex values over any record -/

def Numerics.half {α} (K : Numerics α) : α := K.div (K.ofNat 1) (K.ofNat 2)

/-- `pi`, as the fixed point of R14: `atan2(0, r) = pi` for `r < 0`. -/
def Numerics.pi {α} (K : Numerics α) : α := K.atan2 (K.ofNat 0) (K.neg (K.ofNat 1))

def Numerics.max {α} (K : Numerics α) (x y : α) : α := if K.lt x y then y else x

def Numerics.min {α} (K : Numerics α) (x y : α) : α := if K.lt y x then y else x

/-- `a + b` (R9). -/
def Numerics.cadd {α} (K : Numerics α) (a b : Cplx α) : Cplx α := ⟨K.add a.re b.re, K.add a.im b.im⟩

/-- `a - b` (R9). -/
def Numerics.csub {α} (K : Numerics α) (a b : Cplx α) : Cplx α := ⟨K.sub a.re b.re, K.sub a.im b.im⟩

/-- `a * b = (ar*br - ai*bi, ar*bi + ai*br)` (R9). -/
def Numerics.cmul {α} (K : Numerics α) (a b : Cplx α) : Cplx α :=
  ⟨K.sub (K.mul a.re b.re) (K.mul a.im b.im), K.add (K.mul a.re b.im) (K.mul a.im b.re)⟩

/-- `r * a = (r*ar, r*ai)` for a real `r` (R9). -/
def Numerics.rmul {α} (K : Numerics α) (r : α) (a : Cplx α) : Cplx α := ⟨K.mul r a.re, K.mul r a.im⟩

/-- `a / r = (ar/r, ai/r)` for a real `r` (R9). -/
def Numerics.cdiv {α} (K : Numerics α) (a : Cplx α) (r : α) : Cplx α := ⟨K.div a.re r, K.div a.im r⟩

/-- `conj(a) = (ar, -ai)` (R9). -/
def Numerics.conj {α} (K : Numerics α) (a : Cplx α) : Cplx α := ⟨a.re, K.neg a.im⟩

/-- `(-ar, -ai)`, the negation CENTER writes (R135 of 40). -/
def Numerics.cneg {α} (K : Numerics α) (a : Cplx α) : Cplx α := ⟨K.neg a.re, K.neg a.im⟩

/-- `|a| = sqrt(ar*ar + ai*ai)` (R9). -/
def Numerics.mag {α} (K : Numerics α) (a : Cplx α) : α := K.sqrt (K.add (K.mul a.re a.re) (K.mul a.im a.im))

/-- `arg(a) = atan2(ai, ar)` (R9). -/
def Numerics.arg {α} (K : Numerics α) (a : Cplx α) : α := K.atan2 a.im a.re

/-- `(0, 0)`. -/
def Numerics.czero {α} (K : Numerics α) : Cplx α := ⟨K.ofNat 0, K.ofNat 0⟩

end Sys2Proof.Machine

namespace Sys2Proof

/-! ## The storage format -/

/-- The pattern's exponent field is not all ones: it stands for a finite number (U7 of 93). -/
def isFinitePattern (w : Word) : Bool := (w.extractLsb' 23 8).toNat != 255

/-- The magnitude of a pattern in units of `2^-149` (binary32, R75 of 20_memory). -/
def patternUnits (w : Word) : Nat :=
  let e := (w.extractLsb' 23 8).toNat
  let f := (w.extractLsb' 0 23).toNat
  if e = 0 then f else (2 ^ 23 + f) * 2 ^ (e - 1)

/-- The number a finite pattern stands for (binary32, R75 of 20_memory). -/
def patternValue (w : Word) : ℚ :=
  let m : ℚ := mkRat (patternUnits w) (2 ^ 149)
  if w.msb then -m else m

def Number.zero : Number := ⟨0, by decide +kernel⟩

/-- The stored number with value `q`, when there is one. -/
def Number.ofRat? (q : ℚ) : Option Number := if h : storable q = true then some ⟨q, h⟩ else none

/-- The pattern itself when it is finite, else the one with the lowest exponent bit cleared, which is: every finite
number is the value of some word, and no word gives anything else (log 2). -/
def foldToFinite (w : Word) : Word := if isFinitePattern w then w else w &&& 0xFF7FFFFF#32

/-- The number drawn by an arbitrary word. Used only for free values. -/
def Number.ofFree (w : Word) : Number := (Number.ofRat? (patternValue (foldToFinite w))).getD Number.zero

/-- A non-negative number drawn by an arbitrary word. Used only for free values that the spec bounds below by 0. -/
def Number.ofFreeNonneg (w : Word) : Number := Number.ofFree (w &&& 0x7FFFFFFF#32)

/-- `dec(w)` (R75, R77 of 20_memory): the number a pattern stands for; none for NaN and infinity, which are outside
every rule (U7). -/
def Number.dec? (w : Word) : Option Number := if isFinitePattern w then Number.ofRat? (patternValue w) else none

/-- `enc(v)` (R75 of 20_memory): the binary32 pattern of a stored number; zero is `0x00000000` (V53; log 1). -/
def Number.enc (v : Number) : Word :=
  let k := binary32Units v.val
  let e := Nat.log2 k - 23
  BitVec.ofNat 32 ((if v.val < 0 then 2 ^ 31 else 0) + e * 2 ^ 23 + k / 2 ^ e)

/-! ## The record of `binary32`: exact where the exact result is storable, free where it is not

That is this instance's choice (log 2, 3, 4): the machine over a `NumSystem` assumes none of it. -/

/-- The result of an operation whose exact result is `q`: `q` itself if it can be stored, else a free value that
depends on the operation and the operands alone (R6, U10). -/
def Number.result (op : NumOp) (x y q : ℚ) : Number :=
  (Number.ofRat? q).getD (Number.ofFree (Config.inexact op x y))

def Number.add (x y : Number) : Number := Number.result .add x.val y.val (x.val + y.val)

def Number.sub (x y : Number) : Number := Number.result .sub x.val y.val (x.val - y.val)

def Number.mul (x y : Number) : Number := Number.result .mul x.val y.val (x.val * y.val)

/-- Division by zero has no exact result; no rule divides by zero over the reals (R294 of 60). A divisor that
rounding has made zero gives a free value (log 4). -/
def Number.div (x y : Number) : Number :=
  if y.val = 0 then Number.ofFree (Config.inexact .div x.val y.val)
  else Number.result .div x.val y.val (x.val / y.val)

def Number.neg (x : Number) : Number := Number.result .neg x.val 0 (-x.val)

def Number.ofNat (n : Nat) : Number := Number.result .integer n 0 n

/-- The exact order of the stored values. R6 leaves `lt` to the record, like every other operation of a finite instance
(U10): DESIGN CHOICE (log 2). -/
def Number.lt (x y : Number) : Bool := decide (x.val < y.val)

/-- The integer square root by binary digits: the largest `r` built from `bits` binary digits above `acc` with
`r * r ≤ n`. -/
def isqrtDigits (n : Nat) : (bits : Nat) → (acc : Nat) → Nat
  | 0, acc => acc
  | b + 1, acc => isqrtDigits n b (if (acc + 2 ^ b) * (acc + 2 ^ b) ≤ n then acc + 2 ^ b else acc)

def isqrt (n : Nat) : Nat := isqrtDigits n (Nat.log2 n / 2 + 1) 0

/-- `sqrt(r)`, "the non-negative real square root of `r >= 0`" (R14). A root that is not storable is a free value
that is not negative (R138 of 40; log 3). -/
def Number.sqrt (x : Number) : Number :=
  let r : ℚ := mkRat (isqrt x.val.num.natAbs) (isqrt x.val.den)
  if r * r = x.val then (Number.ofRat? r).getD (Number.ofFreeNonneg (Config.inexact .sqrt x.val 0))
  else Number.ofFreeNonneg (Config.inexact .sqrt x.val 0)

/-- The stored value of `pi`: free within `[3, 4)` (R14; log 3). -/
def Number.pi : Number := Number.ofFree (0x40400000#32 + Config.piIndex.setWidth 32)

/-- `atan2(i, r)` (R14). `atan2(0, r)` is 0 for `r >= 0` and `pi` for `r < 0`; every other angle is irrational, and
its stored value is free within `(-pi, pi]`, the range R14 and R139 give (log 3). -/
def Number.atan2 (i r : Number) : Number :=
  if i.val = 0 then (if r.val < 0 then Number.pi else Number.zero)
  else
    let t := Number.ofFree (Config.inexact .atan2 i.val r.val)
    if -Number.pi.val < t.val ∧ t.val ≤ Number.pi.val then t else Number.pi

/-- `cos` (R14): 1 at 0; at every other stored angle the cosine is irrational and its stored value free (log 3). -/
def Number.cos (x : Number) : Number :=
  if x.val = 0 then Number.ofNat 1 else Number.ofFree (Config.inexact .cos x.val 0)

/-- `sin` (R14): 0 at 0; at every other stored angle the sine is irrational and its stored value free (log 3). -/
def Number.sin (x : Number) : Number :=
  if x.val = 0 then Number.zero else Number.ofFree (Config.inexact .sin x.val 0)

/-- The record of `binary32`. -/
def Machine.numerics : Machine.Numerics Number where
  add := Number.add
  sub := Number.sub
  mul := Number.mul
  div := Number.div
  neg := Number.neg
  sqrt := Number.sqrt
  atan2 := Number.atan2
  cos := Number.cos
  sin := Number.sin
  ofNat := Number.ofNat
  lt := Number.lt

/-- `CFG_EPS` of `binary32`, with `0 < CFG_EPS <= 1/8` (R5; log 5). -/
def cfgEps : Number := Number.ofFree (BitVec.ofNat 32 (Config.epsIndex.val + 1))

end Sys2Proof
end

