-- ==== Sys2Proof/Machine/Lanes.lean ====
section
/-! DEFINITION. What one lane computes, over any `Numerics` record: integer functions of the grid, butterflies,
radial frequency, smoothstep, gate, masks, phase wrap, the amplifier's bin, and the effective parameters.
Products and quotients of several factors are taken from left to right, as the rules write them (log 22). -/

namespace Sys2Proof.Machine

/-! ## Integers (R131 of 40_spectral_primitives) -/

/-- `reverseBits(i, n)`: `sum over t in [0, n) of ((i >> t) and 1) << (n-1-t)` (R131). -/
def reverseBits (i n : Nat) : Nat :=
  ((List.range n).map fun t => ((i >>> t) &&& 1) <<< (n - 1 - t)).sum

/-- "`w` is a power of two" (R252 of 44). -/
def isPowerOfTwo (w : Nat) : Bool := w != 0 && 2 ^ Nat.log2 w == w

section
variable {α : Type} (K : Numerics α)

/-! ## Tables and transform -/

/-- `TWT[k] = (cos(-2*pi*k/N), sin(-2*pi*k/N))` (R133 of 40). -/
def twiddle (n k : Nat) : Cplx α :=
  let t := K.div (K.mul (K.mul (K.neg (K.ofNat 2)) K.pi) (K.ofNat k)) (K.ofNat n)
  ⟨K.cos t, K.sin t⟩

/-- CENTER's value at `(x, y)` (R135 of 40). -/
def centerLane (x y : Nat) (a : Cplx α) : Cplx α := if (x + y) % 2 = 0 then a else K.cneg a

/-- One output of a radix-2 butterfly pass of stage `s` along a line, at position `x`, for lines of length `n`
(R162 of 41); `line` reads the source line and `twt` the twiddle table. -/
def butterfly (n s : Nat) (twt line : Nat → Cplx α) (x : Nat) : Cplx α :=
  let m := 2 ^ s
  let h := m / 2
  let t := n / m
  let p := x % m
  if p < h then K.cadd (line x) (K.cmul (twt (p * t)) (line (x + h)))
  else K.csub (line (x - h)) (K.cmul (twt ((p - h) * t)) (line x))

/-! ## Frequency, gate and masks -/

/-- `f(u, v) = min(1/2, sqrt(du*du + dv*dv) / N)` with `du = u - N/2`, `dv = v - N/2` (R191 of 42). -/
def radialFrequency (n u v : Nat) : α :=
  let du : Int := u - (n / 2 : Nat)
  let dv : Int := v - (n / 2 : Nat)
  K.min K.half (K.div (K.sqrt (K.ofNat (du * du + dv * dv).toNat)) (K.ofNat n))

/-- `S(t)`: 0 below 0, `3*t*t - 2*t*t*t` between, 1 above 1 (R192 of 42). -/
def smoothstep (t : α) : α :=
  if K.lt (K.ofNat 0) t then
    if K.lt t (K.ofNat 1) then
      K.sub (K.mul (K.mul (K.ofNat 3) t) t) (K.mul (K.mul (K.mul (K.ofNat 2) t) t) t)
    else K.ofNat 1
  else K.ofNat 0

/-- `g(f) = S((f - lo)/w) * (1 - S((f - (hi - w))/w))` with `w = (hi - lo)/(2*steep)` (R193 of 42). -/
def gate (lo hi steep f : α) : α :=
  let w := K.div (K.sub hi lo) (K.mul (K.ofNat 2) steep)
  K.mul (smoothstep K (K.div (K.sub f lo) w))
    (K.sub (K.ofNat 1) (smoothstep K (K.div (K.sub f (K.sub hi w)) w)))

/-- `H_j(f)`: 1 for `j = 0`, 0 for `j = L`, else `S((f - (b_j - D/2))/D)` with `D = (fmax - fmin)/L` and
`b_j = fmin + j*D` (R221 of 43). -/
def bandEdge (levels : Nat) (fmin fmax : α) (j : Nat) (f : α) : α :=
  let dd := K.div (K.sub fmax fmin) (K.ofNat levels)
  let b := K.add fmin (K.mul (K.ofNat j) dd)
  if j = 0 then K.ofNat 1
  else if j = levels then K.ofNat 0
  else smoothstep K (K.div (K.sub f (K.sub b (K.div dd (K.ofNat 2)))) dd)

/-- `mask_i(f) = H_i(f) - H_(i+1)(f)` (R221 of 43). -/
def bandMask (levels : Nat) (fmin fmax : α) (i : Nat) (f : α) : α :=
  K.sub (bandEdge K levels fmin fmax i f) (bandEdge K levels fmin fmax (i + 1) f)

/-! ## Parameters -/

/-- The configuration registers as numbers, before clamping (R37 of 10). -/
structure RawConfig (α : Type) where
  canvasW : Word
  canvasH : Word
  pyrLevels : Nat
  minFreq : α
  maxFreq : α
  phaseScale : α
  magThresh : α
  magScale : α
  lowCut : α
  highCut : α
  steepness : α
  motionSens : α
  edgeEnh : α
  ctrl : Word
deriving DecidableEq, Repr

/-- The effective parameters (R38 of 10) together with the canvas registers sampled with them (R250 of 44). -/
structure Params (α : Type) where
  canvasW : Word
  canvasH : Word
  levels : Nat
  fmin : α
  fmax : α
  lo : α
  hi : α
  steep : α
  sens : α
  pscale : α
  mthr : α
  mscale : α
  eenh : α
  pyr : Bool
  bpen : Bool
  edges : Bool
  showmag : Bool
  showph : Bool
deriving DecidableEq, Repr

/-- The clamping of R38 of 10, with `e = CFG_EPS`. -/
def effective (e : α) (pyrMax : Nat) (r : RawConfig α) : Params α :=
  let fmax := K.min (K.max r.maxFreq (K.mul (K.ofNat 2) e)) K.half
  let hi := K.min (K.max r.highCut e) (K.ofNat 1)
  { canvasW := r.canvasW
    canvasH := r.canvasH
    levels := Nat.min (Nat.max r.pyrLevels 1) pyrMax
    fmin := K.min (K.max r.minFreq e) (K.sub fmax e)
    fmax := fmax
    lo := K.min (K.max r.lowCut (K.ofNat 0)) (K.sub hi e)
    hi := hi
    steep := K.max r.steepness e
    sens := K.max r.motionSens e
    pscale := r.phaseScale
    mthr := r.magThresh
    mscale := r.magScale
    eenh := r.edgeEnh
    pyr := r.ctrl.getLsbD 0
    bpen := r.ctrl.getLsbD 1
    edges := r.ctrl.getLsbD 2
    showmag := r.ctrl.getLsbD 3
    showph := r.ctrl.getLsbD 4 }

/-! ## The amplifier -/

/-- `wrap(t)`: `t - 2*pi` above `pi`, `t + 2*pi` at or below `-pi`, else `t` (R194 of 42). -/
def wrapPhase (t : α) : α :=
  if K.lt K.pi t then K.sub t (K.mul (K.ofNat 2) K.pi)
  else if K.lt (K.neg K.pi) t then t
  else K.add t (K.mul (K.ofNat 2) K.pi)

/-- The amplified delta `amp` of steps 1 to 4 of R200 of 42. `f` is the bin's radial frequency and `grad` the
bin's `GRADMAG`, consulted only when `edges = 1` (R195). -/
def ampDelta (P : Params α) (f grad : α) (c p : Cplx α) : α :=
  let dphi := wrapPhase K (K.sub (K.arg c) (K.arg p))
  let gt := if P.bpen then gate K P.lo P.hi P.steep f else K.ofNat 1
  let amp := K.add (K.mul (K.mul (K.mul dphi P.pscale) gt) P.sens)
    (if P.edges then K.mul P.eenh grad else K.ofNat 0)
  if K.lt (K.mag c) P.mthr then K.ofNat 0 else amp

/-- One output bin of PAMP: step 5 of R200 of 42, the current bin rotated by `amp`, its magnitude scaled. -/
def ampBin (P : Params α) (f grad : α) (c p : Cplx α) : Cplx α :=
  let theta := K.add (K.arg c) (ampDelta K P f grad c p)
  let m := K.mul (K.mag c) P.mscale
  ⟨K.mul m (K.cos theta), K.mul m (K.sin theta)⟩

end

end Sys2Proof.Machine
end

