-- ==== Sys2Proof/Machine/State.lean ====
section
/-! DEFINITION. The machine's state (R20 of 10_state), the host's actions, the reasons a step can stop, and reset. -/

namespace Sys2Proof.Machine

/-- Why the machine stops with a fault. -/
inductive Fault
  /-- Raised by a host register access at an offset outside the 256 bytes of register space (R32 of 10, R70 of 20):
  there is no such address. Safe: the model stops where the spec gives nothing. -/
  | noSuchOffset
deriving DecidableEq, Repr

/-- Why the model's step rejects its input. No command word is ever refused: every one is a next state. -/
inductive Refusal
  /-- Raised by an arm of `exec` whose instruction has no meaning yet; no arm does. Safe. -/
  | notModelled (mnemonic : String)
  /-- Raised by a host register access at an offset that is no multiple of 4 ("a model refuses it", R73 of 20, U6).
  Safe: outside the specified behaviour. -/
  | misalignedAccess
  /-- Raised by a host register access that is not 32 bits wide ("a model refuses it", R73 of 20, U6).
  Safe: outside the specified behaviour. -/
  | accessWidth
  /-- Raised by a host write that would store a NaN or infinity pattern in a numeric register or an element
  ("`refuse` for non-finite inputs", U7; log 16). Safe: outside the specified behaviour. -/
  | notFinite
  /-- Raised, never in the machine that `step` runs, by a host write of a number that is no 32-bit word to a register that
  holds a word, in an instance whose registers carry the numbers themselves ("32-bit registers", R32 of 10; log 28). Safe:
  outside the specified behaviour. -/
  | notWord
deriving DecidableEq, Repr

/-- `STATE` (R21 of 10). -/
inductive Session
  | uninitialized | ready | steadyState
deriving DecidableEq, Repr

/-- One access the host makes (R11 of 00, R73 of 20); offsets are byte offsets in register space. `ω` is what an access
carries: a 32-bit word, in the reference instance a number (R75 of 20). -/
inductive HostAccess (ω : Type := Word)
  /-- `RegRead(off)`. -/
  | read (off : Nat)
  /-- `RegWrite(off, w)`. -/
  | write (off : Nat) (w : ω)
  /-- An access of `bits` bits, when `bits` is not 32; the spec defines none (U6). -/
  | otherWidth (off bits : Nat)
deriving DecidableEq, Repr

/-- Whose turn it is (the model's schedule of the inputs; log 12). -/
inductive Turn (ω : Type := Word)
  /-- The host makes an access. -/
  | host (access : HostAccess ω)
  /-- The sequencer runs the command it has accepted, or does nothing when it has none. -/
  | seq
  /-- The reset event (R310, R311 of 70). -/
  | reset
  /-- The environment input `res_ok` takes a level (R252 of 44, U9). -/
  | resources (ok : Bool)
deriving DecidableEq, Repr

/-- Memory of elements: address and value, addresses strictly rising; an address not listed holds no value. -/
abbrev Memory (α : Type) := List (Nat × α)

/-- The host-visible registers with storage of their own (R32, R36, R37, R40 of 10); a numeric one holds what was written to
it, so that it reads as written (R37). -/
structure Regs (ω : Type := Word) where
  ctrl : Word
  canvasW : Word
  canvasH : Word
  pyrLevels : Word
  minFreq : ω
  maxFreq : ω
  phaseScale : ω
  magThresh : ω
  magScale : ω
  lowCut : ω
  highCut : ω
  steepness : ω
  motionSens : ω
  edgeEnh : ω
  hbSel : Word
  hbIdx : Word
deriving DecidableEq, Repr

/-- `FBKEY`, the triple the filter bank was generated from (R26 of 10). -/
structure BankKey (α : Type) where
  levels : Nat
  fmin : α
  fmax : α
deriving DecidableEq, Repr

/-- The complete state (R20 of 10) over the scalar type `α`, which is `Num` of R5, and `ω`, what a register access carries;
after it the model's own fields. `State` without arguments is the state over the binary32 numbers and their words. -/
structure State (α : Type := Number) (ω : Type := Word) where
  /-- `STATE` (R21). -/
  session : Session
  /-- `BUSY` (R22). -/
  busy : Bool
  /-- `CUR`, the accepted command word (R22). -/
  cur : Word
  /-- `SNAP`, the configuration snapshot (R39). -/
  snap : Params α
  /-- `USTEP`, the number of dispatches the command has completed (R23). -/
  ustep : Nat
  /-- `LOGN`; the canvas size is `N = 2^LOGN` (R24). -/
  logn : Fin 17
  /-- `PP`, the ping-pong parity (R25). -/
  pp : Bool
  /-- `FBVALID` (R26). -/
  fbValid : Bool
  /-- `FBKEY` (R26); while `FBVALID = 0` it has no meaning and keeps its last value (log 27). -/
  fbKey : BankKey α
  /-- `LASTERR` (R27). -/
  lastErr : BitVec 4
  /-- `ERRLOG` (R27, R35). -/
  errLog : Word
  /-- The registers with storage (R32). -/
  regs : Regs ω
  /-- The buffers of kind P (R28). -/
  planes : Memory α
  /-- The buffers of kind S (R28). -/
  spectra : Memory (Cplx α)
  /-- The bit-reversal table (R30). -/
  brt : Memory Nat
  /-- The twiddle table (R30). -/
  twt : Memory (Cplx α)
  /-- The model's own: what the last register read returned. -/
  rdata : ω
  /-- The model's own: the turns to come (log 12). -/
  agenda : List (Turn ω)
  /-- The model's own: the level of the input `res_ok` (log 7). -/
  resOk : Bool
  /-- The model's own: `res_ok` as drawn for the command in `CUR` at its acceptance (log 7). -/
  resDraw : Bool
  /-- The model's own: how often all buffers have become unspecified (U1; log 8). -/
  epoch : Nat
  /-- The model's own: how many free words have been drawn (U2, U3, U13; log 9). -/
  draws : Nat
deriving DecidableEq, Repr

/-- The reset values of R37 of 10, numbers as the binary32 patterns of V53 of 95 (log 19). -/
def Regs.reset : Regs where
  ctrl := 0
  canvasW := 0
  canvasH := 0
  pyrLevels := 5
  minFreq := 0x3D4CCCCD
  maxFreq := 0x3EE66666
  phaseScale := 0x3F800000
  magThresh := 0
  magScale := 0x3F800000
  lowCut := 0x3D4CCCCD
  highCut := 0x3ECCCCCD
  steepness := 0x40400000
  motionSens := 0x3F800000
  edgeEnh := 0
  hbSel := 0
  hbIdx := 0

/-- A snapshot of nothing: what `SNAP` holds at reset, where it has no meaning (DESIGN CHOICE, log 13). -/
def Params.blank {α : Type} (zero : α) : Params α where
  canvasW := 0
  canvasH := 0
  levels := 0
  fmin := zero
  fmax := zero
  lo := zero
  hi := zero
  steep := zero
  sens := zero
  pscale := zero
  mthr := zero
  mscale := zero
  eenh := zero
  pyr := false
  bpen := false
  edges := false
  showmag := false
  showph := false

/-- The state after reset (R41 of 10, R310 of 70). Fields without meaning then hold the values of log 13; `zero` stands in
those that hold a `Num`, `unread` in the last word read, and `regs` are the registers' reset values. -/
def State.initial {α ω : Type} (zero : α) (unread : ω) (regs : Regs ω) : State α ω where
  session := .uninitialized
  busy := false
  cur := 0
  snap := Params.blank zero
  ustep := 0
  logn := 0
  pp := false
  fbValid := false
  fbKey := ⟨0, zero, zero⟩
  lastErr := 0
  errLog := 0
  regs := regs
  planes := []
  spectra := []
  brt := []
  twt := []
  rdata := unread
  agenda := []
  resOk := true
  resDraw := true
  epoch := 0
  draws := 0

/-- The state after reset of the machine that `step` runs. -/
def State.reset : State := State.initial Number.zero 0 Regs.reset

end Sys2Proof.Machine
end

