-- ==== Sys2Proof/Machine/Operands.lean ====
section
/-! DEFINITION. Operand forms: buffer identifiers (R28 of 10, R107 of 30), the checks on operands, and the order in
which a command's checks decide its error (R108 of 30). -/

namespace Sys2Proof

/-- The identifier of a plane (R28 of 10_state). -/
def Plane.code : Plane → Nat
  | .lin => 0x00
  | .lprev => 0x01
  | .lout => 0x02
  | .diag => 0x03
  | .mask i => 0x20 + i

/-- The identifier of a spectrum (R28 of 10_state). -/
def Spectrum.code : Spectrum → Nat
  | .w0 => 0x40
  | .w1 => 0x41
  | .scur => 0x42
  | .sprv => 0x43
  | .smod => 0x44
  | .bcur i => 0x60 + i
  | .bprv i => 0x80 + i
  | .bprc i => 0xA0 + i

/-- Level `q - base`, when it is below `PYR_MAX` (R107). -/
def levelOf (base q : Nat) : Option (Fin 32) :=
  if h : base ≤ q ∧ q < base + 32 then
    if q - base < Config.pyrMax then some ⟨q - base, by omega⟩ else none
  else none

/-- The plane an identifier byte names (R107 of 30). -/
def planeOf (q : Byte) : Option Plane :=
  match q.toNat with
  | 0x00 => some .lin
  | 0x01 => some .lprev
  | 0x02 => some .lout
  | 0x03 => some .diag
  | n => (levelOf 0x20 n).map .mask

/-- The spectrum an identifier byte names (R107 of 30). -/
def spectrumOf (q : Byte) : Option Spectrum :=
  match q.toNat with
  | 0x40 => some .w0
  | 0x41 => some .w1
  | 0x42 => some .scur
  | 0x43 => some .sprv
  | 0x44 => some .smod
  | n => ((levelOf 0x60 n).map .bcur).or (((levelOf 0x80 n).map .bprv).or ((levelOf 0xA0 n).map .bprc))

/-- The table an identifier byte names (R107 of 30). -/
def tableOf (q : Byte) : Option Table :=
  match q.toNat with
  | 0xF0 => some .brt
  | 0xF1 => some .twt
  | _ => none

/-- The mask or band buffer of a level, for the macros (R228, R229 of 43). -/
def levelIndex (i : Nat) : Fin 32 := Fin.ofNat 32 i

namespace Machine

variable {α ω : Type}

/-- The errors that abandon a command (R280 of 60). -/
inductive CmdError
  | unavail | precond | illcmd | state | aliased
deriving DecidableEq, Repr

/-- Check 3 of R108 for an operand of kind P. -/
def needPlane (q : Byte) : Except CmdError Plane :=
  match planeOf q with
  | some p => .ok p
  | none => .error .illcmd

/-- Check 3 of R108 for an operand of kind S. -/
def needSpectrum (q : Byte) : Except CmdError Spectrum :=
  match spectrumOf q with
  | some p => .ok p
  | none => .error .illcmd

/-- Check 4 of R108: a command marked `init` needs a session. -/
def needSession (s : State α ω) : Except CmdError Unit :=
  match s.session with
  | .uninitialized => .error .state
  | _ => .ok ()

/-- Check 5 of R108 for a butterfly stage: `1 <= imm <= LOGN`. -/
def needStage (st : Byte) (s : State α ω) : Except CmdError Nat :=
  if 1 ≤ st.toNat ∧ st.toNat ≤ s.logn.val then .ok st.toNat else .error .illcmd

/-- Check 5 of R108 for a mask level: `imm < L` with `L` from `SNAP`. -/
def needLevel (i : Byte) (s : State α ω) : Except CmdError Nat :=
  if i.toNat < s.snap.levels then .ok i.toNat else .error .illcmd

/-- Check 6 of R108 for class G: the destination identifier differs from the source's (R283 of 60). -/
def needDistinct (d a : Byte) : Except CmdError Unit :=
  if d = a then .error .aliased else .ok ()

/-- Checks of an element-wise command on two operands of kinds S, P (R104, R108). -/
def operandsSP (d a : Byte) (s : State α ω) : Except CmdError (Spectrum × Plane) := do
  let d ← needSpectrum d
  let a ← needPlane a
  needSession s
  return (d, a)

/-- Checks of an element-wise command on two operands of kinds S, S (R104, R108). -/
def operandsSS (d a : Byte) (s : State α ω) : Except CmdError (Spectrum × Spectrum) := do
  let d ← needSpectrum d
  let a ← needSpectrum a
  needSession s
  return (d, a)

/-- Checks of an element-wise command on two operands of kinds P, S (R104, R108). -/
def operandsPS (d a : Byte) (s : State α ω) : Except CmdError (Plane × Spectrum) := do
  let d ← needPlane d
  let a ← needSpectrum a
  needSession s
  return (d, a)

/-- Checks of an element-wise command on two operands of kinds P, P (R104, R108). -/
def operandsPP (d a : Byte) (s : State α ω) : Except CmdError (Plane × Plane) := do
  let d ← needPlane d
  let a ← needPlane a
  needSession s
  return (d, a)

/-- Checks of a command on one operand of kind S (R104, R108). -/
def operandsS (d : Byte) (s : State α ω) : Except CmdError Spectrum := do
  let d ← needSpectrum d
  needSession s
  return d

/-- Checks of an element-wise command on three operands of kind S (R104, R108). -/
def operandsSSS (d a b : Byte) (s : State α ω) : Except CmdError (Spectrum × Spectrum × Spectrum) := do
  let d ← needSpectrum d
  let a ← needSpectrum a
  let b ← needSpectrum b
  needSession s
  return (d, a, b)

/-- Checks of an element-wise command on operands of kinds S, S, P (R104, R108). -/
def operandsSSP (d a b : Byte) (s : State α ω) : Except CmdError (Spectrum × Spectrum × Plane) := do
  let d ← needSpectrum d
  let a ← needSpectrum a
  let b ← needPlane b
  needSession s
  return (d, a, b)

/-- Checks of a gather command on two operands of kind S (R104, R108). -/
def operandsGather (d a : Byte) (s : State α ω) : Except CmdError (Spectrum × Spectrum) := do
  let r ← operandsSS d a s
  needDistinct d a
  return r

/-- Checks of a butterfly pass: gather operands and a stage (R104, R108). -/
def operandsStage (d a st : Byte) (s : State α ω) : Except CmdError (Spectrum × Spectrum × Nat) := do
  let (d', a') ← operandsSS d a s
  let k ← needStage st s
  needDistinct d a
  return (d', a', k)

/-- Checks of PAMP: gather operands, the destination distinct from both sources (R104, R108). -/
def operandsAmp (d a b : Byte) (s : State α ω) : Except CmdError (Spectrum × Spectrum × Spectrum) := do
  let r ← operandsSSS d a b s
  needDistinct d a
  needDistinct d b
  return r

/-- Checks of GENMASK: a plane and a level (R104, R108). -/
def operandsLevel (d i : Byte) (s : State α ω) : Except CmdError (Plane × Nat) := do
  let d ← needPlane d
  needSession s
  let i ← needLevel i s
  return (d, i)

end Machine

end Sys2Proof
end

