-- ==== Sys2Proof/Machine/Flags.lean ====
section
/-! DEFINITION. Flags: error codes and the error log (R27, R35 of 10, R280 of 60), the `STATUS` word (R34 of 10), and
the rule that keeps `FBVALID` honest (R231 of 43). -/

namespace Sys2Proof.Machine

variable {α ω : Type}

/-- The code of a command error (R280 of 60). -/
def CmdError.code : CmdError → Nat
  | .unavail => 1
  | .precond => 2
  | .illcmd => 3
  | .state => 4
  | .aliased => 5

/-- `E_OVERRUN` (R280, R284 of 60). -/
def overrunCode : Nat := 6

/-- `E_HOSTACC` (R280, R285 of 60). -/
def hostAccCode : Nat := 7

/-- `ERRLOG[e] <- 1` (R35 of 10); the bit is sticky (R287 of 60). -/
def State.logError (e : Nat) (s : State α ω) : State α ω :=
  { s with errLog := s.errLog ||| BitVec.ofNat 32 (2 ^ e) }

/-- The code of `STATE` (R21 of 10). -/
def Session.code : Session → Nat
  | .uninitialized => 0
  | .ready => 1
  | .steadyState => 2

/-- `STATUS[20:16]`: "`log2(N)` while `STATE != 0`, else 0" (R34 of 10). -/
def State.lognField (s : State α ω) : Nat :=
  match s.session with
  | .uninitialized => 0
  | _ => s.logn.val

/-- The `STATUS` word with the given fields (R34 of 10). -/
def statusLayout (busy : Bool) (state : Nat) (pp fbValid : Bool) (lastErr : BitVec 4) (logn : Nat) : Word :=
  BitVec.ofNat 32 (busy.toNat + state * 2 ^ 1 + pp.toNat * 2 ^ 3 + fbValid.toNat * 2 ^ 4
    + lastErr.toNat * 2 ^ 8 + logn * 2 ^ 16)

/-- `STATUS` when nothing is in transition (R34 of 10). -/
def State.statusWord (s : State α ω) : Word :=
  statusLayout s.busy s.session.code s.pp s.fbValid s.lastErr s.lognField

/-- "any host-issued command, other than GENFILT, whose destination operand `d` is a plane `M[j]`" clears `FBVALID` at
its completion, and so does an admitted window write to `M[j]` (R231 of 43).
`FBKEY`, which then has no meaning (U2), keeps its value: DESIGN CHOICE (log 27). -/
def State.planeTouched (d : Plane) (s : State α ω) : State α ω :=
  match d with
  | .mask _ => { s with fbValid := false }
  | _ => s

end Sys2Proof.Machine
end

