-- ==== Sys2Proof/Machine/NumSystem.lean ====
section
/-! DEFINITION. The number system the machine takes as its argument (R5, R6 of 00_scope, D2), and `binary32`, the one at which
`exec` and `step` run. -/

namespace Sys2Proof.Machine

/-- `Num` with its `Numerics` record, and every parameter of R5 and of 93 that is made of `Num` (D2: "`Num` stays a
parameter: OPEN"). `α` is `Num`; `ω` is what one register access carries, "a `Num` travels as ... `enc(v)`" (R75 of 20):
binary32 words in a binary32 machine, real numbers in the reference instance. The whole machine, State and step, is written
over an arbitrary one: `execOver`, `stepOver`. -/
structure NumSystem (α ω : Type) where
  /-- The `Numerics` record (R6, U10). -/
  ops : Numerics α
  /-- `CFG_EPS` (R5, U11). -/
  cfgEps : α
  /-- `GRADMAG`: the magnitudes in row-major order, `u`, `v`, `N` (R195 of 42, U8; log 6). -/
  gradMag : List α → Nat → Nat → Nat → α
  /-- `TOL` (R5; log 25). The machine does not read it; `Acceptable` does. -/
  tol : ℚ
  /-- `enc` (R75 of 20). -/
  enc : α → ω
  /-- `dec` (R75, R77 of 20); none for a pattern that is no finite number (U7). -/
  dec : ω → Option α
  /-- How a 32-bit word that is no `Num` travels: a flag word, an integer, `zext_32(BRT[i])` (R32 of 10, R75 of 20). -/
  ofWord : Word → ω
  /-- The word an access carries; none for what is no 32-bit word (log 28). -/
  toWord : ω → Option Word
  /-- The registers' reset values (R37 of 10; log 19). -/
  resetRegs : Regs ω
  /-- The arbitrary content of an element that has not been written: epoch, address, part (U1; log 8). -/
  unwritten : Nat → Nat → Nat → α
  /-- The value of a numeric register that holds no number, in states no run reaches (U7; log 16). -/
  notFinite : ω → α

/-- The number system of `exec` and `step`: the finite binary32 numbers of the storage format, which travel as their 32-bit
patterns (R6, D2, R75 of 20; log 1). -/
def binary32 : NumSystem Number Word where
  ops := numerics
  cfgEps := cfgEps
  gradMag mags u v n := Number.ofFreeNonneg (Config.gradMag (mags.map Number.val) u v n)
  tol := Config.tol
  enc := Number.enc
  dec := Number.dec?
  ofWord w := w
  toWord w := some w
  resetRegs := Regs.reset
  unwritten epoch addr part := Number.ofFree (Config.unwritten epoch addr part)
  notFinite w := Number.ofFree (Config.notFinite w)

end Sys2Proof.Machine
end

