-- ==== Sys2Proof/Machine/Ops.lean ====
section
/-! DEFINITION. The operations over memory and state that the meanings are written with: element reads, dispatches,
the ping-pong pass, the life cycle of a command (R250 of 44) and the abandonment of a command, which is this block's
taking of an exception (R286 of 60). There is no return from it (R287 of 60). -/

namespace Sys2Proof.Machine

variable {α ω : Type} (M : NumSystem α ω)

/-! ## Element memory (R70, R72 of 20; log 8, 18) -/

/-- The canonical form: addresses strictly rising. An unlisted address holds no value, so no entry can equal it. -/
def Memory.wf (m : Memory α) : Bool := decide (m.Pairwise fun c d => c.1 < d.1)

/-- The element stored at an address, if any. -/
def Memory.get? : Memory α → Nat → Option α
  | [], _ => none
  | (k, v) :: r, a => if k = a then some v else Memory.get? r a

/-- Store one element. -/
def Memory.set : Memory α → Nat → α → Memory α
  | [], a, v => [(a, v)]
  | (k, w) :: r, a, v =>
    if a < k then (a, v) :: (k, w) :: r
    else if a = k then (a, v) :: r
    else (k, w) :: Memory.set r a v

/-- Store `f i` at `base + i` for every `i < n`, and leave every other element. -/
def Memory.fill (m : Memory α) (base n : Nat) (f : Nat → α) : Memory α :=
  m.filter (fun c => c.1 < base)
    ++ (List.range n).map (fun i => (base + i, f i))
    ++ m.filter (fun c => base + n ≤ c.1)

/-- The address of element `idx` of the buffer with identifier `code`. Element indices stay below `2^32`
(R131 of 40), so different identifiers name disjoint storage (R29 of 10). -/
def elemAddr (code idx : Nat) : Nat := code * 2 ^ 32 + idx

/-- The identifiers of the tables, in the addresses of their free content (R28 of 10). -/
def Table.code : Table → Nat
  | .brt => 0xF0
  | .twt => 0xF1

/-- The canvas size `N = 2^LOGN` (R24 of 10). -/
def State.n (s : State α ω) : Nat := 2 ^ s.logn.val

/-- `MemRead(p, idx)` for a plane (R72 of 20). -/
def State.planeElem (s : State α ω) (p : Plane) (idx : Nat) : α :=
  (s.planes.get? (elemAddr p.code idx)).getD (M.unwritten s.epoch (elemAddr p.code idx) 0)

/-- `MemRead(q, idx)` for a spectrum (R72 of 20). -/
def State.specElem (s : State α ω) (q : Spectrum) (idx : Nat) : Cplx α :=
  (s.spectra.get? (elemAddr q.code idx)).getD
    ⟨M.unwritten s.epoch (elemAddr q.code idx) 0, M.unwritten s.epoch (elemAddr q.code idx) 1⟩

/-- `BRT[i]`; an entry never written holds an arbitrary integer below `N` (R30 of 10, U1). -/
def State.brtEntry (s : State α ω) (i : Nat) : Nat :=
  (s.brt.get? i).getD ((Config.unwritten s.epoch (elemAddr (Table.code .brt) i) 0).toNat % s.n)

/-- `TWT[k]` (R30 of 10). -/
def State.twtEntry (s : State α ω) (k : Nat) : Cplx α :=
  (s.twt.get? k).getD
    ⟨M.unwritten s.epoch (elemAddr (Table.code .twt) k) 0, M.unwritten s.epoch (elemAddr (Table.code .twt) k) 1⟩

/-- `B[x, y]` of a plane: element `y*N + x` (R10 of 00). -/
def State.planeAt (s : State α ω) (p : Plane) (x y : Nat) : α := s.planeElem M p (y * s.n + x)

/-- `B[x, y]` of a spectrum: element `y*N + x` (R10 of 00). -/
def State.specAt (s : State α ω) (q : Spectrum) (x y : Nat) : Cplx α := s.specElem M q (y * s.n + x)

/-! ## One dispatch (R81, R82, R83 of 20; log 21)

Every lane reads the state before the dispatch; `USTEP` counts the dispatch (R23 of 10). -/

/-- "for all (x, y): d[x, y] <- lane x y" on a plane. -/
def State.dispatchP (d : Plane) (lane : Nat → Nat → α) (s : State α ω) : State α ω :=
  { s with
    planes := s.planes.fill (elemAddr d.code 0) (s.n * s.n) (fun i => lane (i % s.n) (i / s.n))
    ustep := s.ustep + 1 }

/-- "for all (x, y): d[x, y] <- lane x y" on a spectrum. -/
def State.dispatchS (d : Spectrum) (lane : Nat → Nat → Cplx α) (s : State α ω) : State α ω :=
  { s with
    spectra := s.spectra.fill (elemAddr d.code 0) (s.n * s.n) (fun i => lane (i % s.n) (i / s.n))
    ustep := s.ustep + 1 }

/-- "for all i in [0, N): BRT[i] <- entry i" (R132 of 40). -/
def State.dispatchBrt (entry : Nat → Nat) (s : State α ω) : State α ω :=
  { s with brt := s.brt.fill 0 s.n entry, ustep := s.ustep + 1 }

/-- "for all k in [0, N/2): TWT[k] <- entry k" (R133 of 40). -/
def State.dispatchTwt (entry : Nat → Cplx α) (s : State α ω) : State α ω :=
  { s with twt := s.twt.fill 0 (s.n / 2) entry, ustep := s.ustep + 1 }

/-- One window write of a plane's element (R77 of 20). -/
def State.writePlane (p : Plane) (idx : Nat) (v : α) (s : State α ω) : State α ω :=
  { s with planes := s.planes.set (elemAddr p.code idx) v }

/-- One window write of a spectrum's element (R77 of 20). -/
def State.writeSpec (q : Spectrum) (idx : Nat) (z : Cplx α) (s : State α ω) : State α ω :=
  { s with spectra := s.spectra.set (elemAddr q.code idx) z }

/-! ## Ping-pong (R25 of 10, R169 of 41) -/

/-- `W[PP]` for a value of the parity. -/
def workBuffer (pp : Bool) : Spectrum := if pp then .w1 else .w0

/-- A dispatch that "reads `W[PP]`, writes `W[1-PP]`, and then flips `PP <- 1 - PP`" (R169 of 41). -/
def State.pingPong (op : Spectrum → Spectrum → State α ω → State α ω) (s : State α ω) : State α ω :=
  { op (workBuffer (!s.pp)) (workBuffer s.pp) s with pp := !s.pp }

/-- The passes of stages `1, ..., k`, each a ping-pong dispatch (R170, R172 of 41). -/
def State.passes (op : Spectrum → Spectrum → Nat → State α ω → State α ω) : Nat → State α ω → State α ω
  | 0, s => s
  | k + 1, s => (State.passes op k s).pingPong (fun d a => op d a (k + 1))

/-! ## The life of a command (R250 of 44) -/

/-- The value of a numeric register (R37 of 10). A register holds a number in every run; the free value covers
states no run reaches (U7; log 16). -/
def regNum (x : ω) : α := (M.dec x).getD (M.notFinite x)

/-- The configuration registers as numbers (R37 of 10). -/
def Regs.raw (r : Regs ω) : RawConfig α where
  canvasW := r.canvasW
  canvasH := r.canvasH
  pyrLevels := r.pyrLevels.toNat
  minFreq := regNum M r.minFreq
  maxFreq := regNum M r.maxFreq
  phaseScale := regNum M r.phaseScale
  magThresh := regNum M r.magThresh
  magScale := regNum M r.magScale
  lowCut := regNum M r.lowCut
  highCut := regNum M r.highCut
  steepness := regNum M r.steepness
  motionSens := regNum M r.motionSens
  edgeEnh := regNum M r.edgeEnh
  ctrl := r.ctrl

/-- The effective parameters of the registers as they are now (R38 of 10). -/
def State.effectiveNow (s : State α ω) : Params α := effective M.ops M.cfgEps Config.pyrMax (s.regs.raw M)

/-- Accept a command word: "`CUR <- w; BUSY <- 1; LASTERR <- 0; USTEP <- 0; SNAP <- effective parameters`" (R250, R33).
The draw of `res_ok` for this command is made here too: DESIGN CHOICE (log 7). -/
def State.accept (w : Word) (s : State α ω) : State α ω :=
  { s with cur := w, busy := true, lastErr := 0, ustep := 0, snap := s.effectiveNow M, resDraw := s.resOk }

/-- Complete a command: `BUSY <- 0` (R250). -/
def State.complete (s : State α ω) : State α ω := { s with busy := false }

/-- Abandon a command: "`LASTERR <- e; ERRLOG[e] <- 1; BUSY <- 0`; nothing else changes" (R250 of 44, R286 of 60). -/
def State.abandon (e : CmdError) (s : State α ω) : State α ω :=
  { s.logError e.code with lastErr := BitVec.ofNat 4 e.code, busy := false }

/-- A command's checks and dispatches, from the state at acceptance: completed, or abandoned with the error of the
first check that fails (R250). -/
def State.finish (s : State α ω) (r : Except CmdError (State α ω)) : Host.Outcome (State α ω) Fault Refusal :=
  match r with
  | .ok t => .next t.complete
  | .error e => .next (s.abandon e)

/-- "every buffer and both tables <- unspecified" (R252, R253 of 44): nothing listed, new arbitrary content. -/
def State.forget (s : State α ω) : State α ω :=
  { s with planes := [], spectra := [], brt := [], twt := [], epoch := s.epoch + 1 }

/-- "N, LOGN <- undefined" (R252, R253 of 44): a free value (U2; log 14). -/
def State.undefineCanvas (s : State α ω) : State α ω :=
  { s with logn := Config.undefinedLogn s.draws, draws := s.draws + 1 }

end Sys2Proof.Machine
end

