-- ==== Sys2Proof/Machine/Elementwise.lean ====
section
/-! DEFINITION. The element-wise commands (R134 to R141 of 40_spectral_primitives, R164 of 41, R223 to R225 of 43):
for each, its dispatch, which the macros use too, and its meaning as a host-issued command. A host-issued command whose
destination is a plane ends with R231 of 43. -/

namespace Sys2Proof.Machine

variable {α ω : Type} (M : NumSystem α ω)

/-! ## Dispatches -/

/-- "d[x, y] <- ( a[x, y], 0 )" (R134). -/
def State.widen (d : Spectrum) (a : Plane) (s : State α ω) : State α ω :=
  s.dispatchS d fun x y => ⟨s.planeAt M a x y, M.ops.ofNat 0⟩

/-- "if (x + y) mod 2 = 0 then d[x, y] <- a[x, y] else d[x, y] <- ( -re(a[x, y]), -im(a[x, y]) )" (R135). -/
def State.center (d a : Spectrum) (s : State α ω) : State α ω :=
  s.dispatchS d fun x y => centerLane M.ops x y (s.specAt M a x y)

/-- "d[x, y] <- ( re(a[x, y]), -im(a[x, y]) )" (R136). -/
def State.conj (d a : Spectrum) (s : State α ω) : State α ω :=
  s.dispatchS d fun x y => M.ops.conj (s.specAt M a x y)

/-- "d[x, y] <- ( re(a[x, y]) / (N*N), im(a[x, y]) / (N*N) )" (R137). -/
def State.scale (d a : Spectrum) (s : State α ω) : State α ω :=
  s.dispatchS d fun x y => M.ops.cdiv (s.specAt M a x y) (M.ops.ofNat (s.n * s.n))

/-- "d[x, y] <- sqrt( re(a[x, y])^2 + im(a[x, y])^2 )" (R138). -/
def State.toMag (d : Plane) (a : Spectrum) (s : State α ω) : State α ω :=
  s.dispatchP d fun x y => M.ops.mag (s.specAt M a x y)

/-- "d[x, y] <- atan2( im(a[x, y]), re(a[x, y]) )" (R139). -/
def State.toPhase (d : Plane) (a : Spectrum) (s : State α ω) : State α ω :=
  s.dispatchP d fun x y => M.ops.arg (s.specAt M a x y)

/-- "d[x, y] <- re( a[x, y] )" (R164). -/
def State.toReal (d : Plane) (a : Spectrum) (s : State α ω) : State α ω :=
  s.dispatchP d fun x y => (s.specAt M a x y).re

/-- "d[x, y] <- a[x, y]" on planes (R140). -/
def State.copyP (d a : Plane) (s : State α ω) : State α ω := s.dispatchP d fun x y => s.planeAt M a x y

/-- "d[x, y] <- a[x, y]" on spectra (R141). -/
def State.copyS (d a : Spectrum) (s : State α ω) : State α ω := s.dispatchS d fun x y => s.specAt M a x y

/-- "d[u, v] <- (0, 0)" (R224). -/
def State.zero (d : Spectrum) (s : State α ω) : State α ω := s.dispatchS d fun _ _ => M.ops.czero

/-- "d[u, v] <- a[u, v] + b[u, v]" (R225). -/
def State.add (d a b : Spectrum) (s : State α ω) : State α ω :=
  s.dispatchS d fun x y => M.ops.cadd (s.specAt M a x y) (s.specAt M b x y)

/-- "d[u, v] <- ( b[u, v] * re(a[u, v]), b[u, v] * im(a[u, v]) )" (R223). -/
def State.mulM (d a : Spectrum) (b : Plane) (s : State α ω) : State α ω :=
  s.dispatchS d fun x y => M.ops.rmul (s.planeAt M b x y) (s.specAt M a x y)

/-! ## Meanings -/

/-- WIDEN d, a (R134). -/
def Meaning.widen (d a : Byte) (s : State α ω) : Host.Outcome (State α ω) Fault Refusal :=
  s.finish do
    let (d, a) ← operandsSP d a s
    return s.widen M d a

/-- WIDEN d, a (R134), in the machine that `step` runs. -/
def execWiden (d a : Byte) (s : State) : Host.Outcome State Fault Refusal := Meaning.widen binary32 d a s

/-- CENTER d, a (R135). -/
def Meaning.center (d a : Byte) (s : State α ω) : Host.Outcome (State α ω) Fault Refusal :=
  s.finish do
    let (d, a) ← operandsSS d a s
    return s.center M d a

/-- CENTER d, a (R135), in the machine that `step` runs. -/
def execCenter (d a : Byte) (s : State) : Host.Outcome State Fault Refusal := Meaning.center binary32 d a s

/-- CONJ d, a (R136). -/
def Meaning.conj (d a : Byte) (s : State α ω) : Host.Outcome (State α ω) Fault Refusal :=
  s.finish do
    let (d, a) ← operandsSS d a s
    return s.conj M d a

/-- CONJ d, a (R136), in the machine that `step` runs. -/
def execConj (d a : Byte) (s : State) : Host.Outcome State Fault Refusal := Meaning.conj binary32 d a s

/-- SCALE d, a (R137). -/
def Meaning.scale (d a : Byte) (s : State α ω) : Host.Outcome (State α ω) Fault Refusal :=
  s.finish do
    let (d, a) ← operandsSS d a s
    return s.scale M d a

/-- SCALE d, a (R137), in the machine that `step` runs. -/
def execScale (d a : Byte) (s : State) : Host.Outcome State Fault Refusal := Meaning.scale binary32 d a s

/-- TOMAG d, a (R138). -/
def Meaning.toMag (d a : Byte) (s : State α ω) : Host.Outcome (State α ω) Fault Refusal :=
  s.finish do
    let (d, a) ← operandsPS d a s
    return (s.toMag M d a).planeTouched d

/-- TOMAG d, a (R138), in the machine that `step` runs. -/
def execToMag (d a : Byte) (s : State) : Host.Outcome State Fault Refusal := Meaning.toMag binary32 d a s

/-- TOPHASE d, a (R139). -/
def Meaning.toPhase (d a : Byte) (s : State α ω) : Host.Outcome (State α ω) Fault Refusal :=
  s.finish do
    let (d, a) ← operandsPS d a s
    return (s.toPhase M d a).planeTouched d

/-- TOPHASE d, a (R139), in the machine that `step` runs. -/
def execToPhase (d a : Byte) (s : State) : Host.Outcome State Fault Refusal := Meaning.toPhase binary32 d a s

/-- TOREAL d, a (R164 of 41). -/
def Meaning.toReal (d a : Byte) (s : State α ω) : Host.Outcome (State α ω) Fault Refusal :=
  s.finish do
    let (d, a) ← operandsPS d a s
    return (s.toReal M d a).planeTouched d

/-- TOREAL d, a (R164 of 41), in the machine that `step` runs. -/
def execToReal (d a : Byte) (s : State) : Host.Outcome State Fault Refusal := Meaning.toReal binary32 d a s

/-- COPYP d, a (R140). -/
def Meaning.copyP (d a : Byte) (s : State α ω) : Host.Outcome (State α ω) Fault Refusal :=
  s.finish do
    let (d, a) ← operandsPP d a s
    return (s.copyP M d a).planeTouched d

/-- COPYP d, a (R140), in the machine that `step` runs. -/
def execCopyP (d a : Byte) (s : State) : Host.Outcome State Fault Refusal := Meaning.copyP binary32 d a s

/-- COPYS d, a (R141). -/
def Meaning.copyS (d a : Byte) (s : State α ω) : Host.Outcome (State α ω) Fault Refusal :=
  s.finish do
    let (d, a) ← operandsSS d a s
    return s.copyS M d a

/-- COPYS d, a (R141), in the machine that `step` runs. -/
def execCopyS (d a : Byte) (s : State) : Host.Outcome State Fault Refusal := Meaning.copyS binary32 d a s

/-- ZERO d (R224 of 43). -/
def Meaning.zero (d : Byte) (s : State α ω) : Host.Outcome (State α ω) Fault Refusal :=
  s.finish do
    let d ← operandsS d s
    return s.zero M d

/-- ZERO d (R224 of 43), in the machine that `step` runs. -/
def execZero (d : Byte) (s : State) : Host.Outcome State Fault Refusal := Meaning.zero binary32 d s

/-- ADD d, a, b (R225 of 43). -/
def Meaning.add (d a b : Byte) (s : State α ω) : Host.Outcome (State α ω) Fault Refusal :=
  s.finish do
    let (d, a, b) ← operandsSSS d a b s
    return s.add M d a b

/-- ADD d, a, b (R225 of 43), in the machine that `step` runs. -/
def execAdd (d a b : Byte) (s : State) : Host.Outcome State Fault Refusal := Meaning.add binary32 d a b s

/-- MULM d, a, b (R223 of 43). -/
def Meaning.mulM (d a b : Byte) (s : State α ω) : Host.Outcome (State α ω) Fault Refusal :=
  s.finish do
    let (d, a, b) ← operandsSSP d a b s
    return s.mulM M d a b

/-- MULM d, a, b (R223 of 43), in the machine that `step` runs. -/
def execMulM (d a b : Byte) (s : State) : Host.Outcome State Fault Refusal := Meaning.mulM binary32 d a b s

end Sys2Proof.Machine
end

