-- ==== Sys2Proof/Machine/Fft.lean ====
section
/-! DEFINITION. The 2D FFT engine (41_fft_engine): the permutes and butterfly passes, and the macros FFT.FWD, FFT.INV. -/

namespace Sys2Proof.Machine

variable {α ω : Type} (M : NumSystem α ω)

/-! ## Gather dispatches -/

/-- "d[x, y] <- a[ BRT[x], y ]" (R160). -/
def State.brevRow (d a : Spectrum) (s : State α ω) : State α ω :=
  s.dispatchS d fun x y => s.specAt M a (s.brtEntry x) y

/-- "d[x, y] <- a[ x, BRT[y] ]" (R161). -/
def State.brevCol (d a : Spectrum) (s : State α ω) : State α ω :=
  s.dispatchS d fun x y => s.specAt M a x (s.brtEntry y)

/-- One butterfly pass along rows, stage `k` (R162). -/
def State.bflyRow (d a : Spectrum) (k : Nat) (s : State α ω) : State α ω :=
  s.dispatchS d fun x y => butterfly M.ops s.n k (s.twtEntry M) (fun i => s.specAt M a i y) x

/-- One butterfly pass along columns, stage `k` (R163). -/
def State.bflyCol (d a : Spectrum) (k : Nat) (s : State α ω) : State α ω :=
  s.dispatchS d fun x y => butterfly M.ops s.n k (s.twtEntry M) (fun i => s.specAt M a x i) y

/-! ## Macro expansions -/

/-- The permutes and passes both macros share: forward steps 3 to 6 (R170, R172). -/
def State.rowsAndColumns (s : State α ω) : State α ω :=
  let s1 := State.passes (State.bflyRow M) s.logn.val (s.pingPong (State.brevRow M))
  State.passes (State.bflyCol M) s.logn.val (s1.pingPong (State.brevCol M))

/-- The expansion of FFT.FWD (R170): `PP <- 0` when the first dispatch writes `W0` (R169). -/
def State.fftForward (d : Spectrum) (a : Plane) (s : State α ω) : State α ω :=
  let s1 : State α ω := { s.widen M .w0 a with pp := false }
  let s2 := (s1.center M .w0 .w0).rowsAndColumns M
  s2.copyS M d (workBuffer s2.pp)

/-- The expansion of FFT.INV (R172). -/
def State.fftInverse (d : Plane) (a : Spectrum) (s : State α ω) : State α ω :=
  let s1 : State α ω := { s.conj M .w0 a with pp := false }
  ((((s1.rowsAndColumns M).conj M .w0 .w0).scale M .w0 .w0).center M .w0 .w0).toReal M d .w0

/-! ## Meanings -/

/-- BREV.ROW d, a (R160). -/
def Meaning.brevRow (d a : Byte) (s : State α ω) : Host.Outcome (State α ω) Fault Refusal :=
  s.finish do
    let (d, a) ← operandsGather d a s
    return s.brevRow M d a

/-- BREV.ROW d, a (R160), in the machine that `step` runs. -/
def execBrevRow (d a : Byte) (s : State) : Host.Outcome State Fault Refusal := Meaning.brevRow binary32 d a s

/-- BREV.COL d, a (R161). -/
def Meaning.brevCol (d a : Byte) (s : State α ω) : Host.Outcome (State α ω) Fault Refusal :=
  s.finish do
    let (d, a) ← operandsGather d a s
    return s.brevCol M d a

/-- BREV.COL d, a (R161), in the machine that `step` runs. -/
def execBrevCol (d a : Byte) (s : State) : Host.Outcome State Fault Refusal := Meaning.brevCol binary32 d a s

/-- BFLY.ROW d, a, #s (R162). -/
def Meaning.bflyRow (d a st : Byte) (s : State α ω) : Host.Outcome (State α ω) Fault Refusal :=
  s.finish do
    let (d, a, k) ← operandsStage d a st s
    return s.bflyRow M d a k

/-- BFLY.ROW d, a, #s (R162), in the machine that `step` runs. -/
def execBflyRow (d a st : Byte) (s : State) : Host.Outcome State Fault Refusal := Meaning.bflyRow binary32 d a st s

/-- BFLY.COL d, a, #s (R163). -/
def Meaning.bflyCol (d a st : Byte) (s : State α ω) : Host.Outcome (State α ω) Fault Refusal :=
  s.finish do
    let (d, a, k) ← operandsStage d a st s
    return s.bflyCol M d a k

/-- BFLY.COL d, a, #s (R163), in the machine that `step` runs. -/
def execBflyCol (d a st : Byte) (s : State) : Host.Outcome State Fault Refusal := Meaning.bflyCol binary32 d a st s

/-- FFT.FWD d, a (R170). -/
def Meaning.fftFwd (d a : Byte) (s : State α ω) : Host.Outcome (State α ω) Fault Refusal :=
  s.finish do
    let (d, a) ← operandsSP d a s
    return s.fftForward M d a

/-- FFT.FWD d, a (R170), in the machine that `step` runs. -/
def execFftFwd (d a : Byte) (s : State) : Host.Outcome State Fault Refusal := Meaning.fftFwd binary32 d a s

/-- FFT.INV d, a (R172); a destination `M[j]` clears `FBVALID` (R231 of 43). -/
def Meaning.fftInv (d a : Byte) (s : State α ω) : Host.Outcome (State α ω) Fault Refusal :=
  s.finish do
    let (d, a) ← operandsPS d a s
    return (s.fftInverse M d a).planeTouched d

/-- FFT.INV d, a (R172), in the machine that `step` runs. -/
def execFftInv (d a : Byte) (s : State) : Host.Outcome State Fault Refusal := Meaning.fftInv binary32 d a s

end Sys2Proof.Machine
end

