-- ==== Sys2Proof/Machine/Amplifier.lean ====
section
/-! DEFINITION. The phase-difference amplifier PAMP (R200 of 42_phase_amplifier). -/

namespace Sys2Proof.Machine

variable {α ω : Type} (M : NumSystem α ω)

/-- `GRADMAG(a, u, v)`: "a total function of the magnitudes `|a[u', v']|`, of `(u, v)` and of `N`, returning a
non-negative `Num`" (R195, U8; log 6). -/
def State.gradMag (s : State α ω) (a : Spectrum) (u v : Nat) : α :=
  M.gradMag ((List.range (s.n * s.n)).map fun i => M.ops.mag (s.specElem M a i)) u v s.n

/-- The dispatch of PAMP (R200): each bin of `d` from the bins of `a` (current) and `b` (previous) and `SNAP`. -/
def State.amplify (d a b : Spectrum) (s : State α ω) : State α ω :=
  s.dispatchS d fun u v =>
    ampBin M.ops s.snap (radialFrequency M.ops s.n u v) (s.gradMag M a u v) (s.specAt M a u v) (s.specAt M b u v)

/-- PAMP d, a, b (R200). -/
def Meaning.pamp (d a b : Byte) (s : State α ω) : Host.Outcome (State α ω) Fault Refusal :=
  s.finish do
    let (d, a, b) ← operandsAmp d a b s
    return s.amplify M d a b

/-- PAMP d, a, b (R200), in the machine that `step` runs. -/
def execPamp (d a b : Byte) (s : State) : Host.Outcome State Fault Refusal := Meaning.pamp binary32 d a b s

end Sys2Proof.Machine
end

