-- ==== Sys2Proof/Machine/Pyramid.lean ====
section
/-! DEFINITION. The pyramid band decomposer (43_pyramid): GENMASK, GENFILT and the decomposer sequence of FRAME. -/

namespace Sys2Proof.Machine

variable {α ω : Type} (M : NumSystem α ω)

/-- "d[u, v] <- mask_i( f(u, v) )" with `L`, `fmin`, `fmax` from `SNAP` (R222). -/
def State.genMask (d : Plane) (i : Nat) (s : State α ω) : State α ω :=
  s.dispatchP d fun u v =>
    bandMask M.ops s.snap.levels s.snap.fmin s.snap.fmax i (radialFrequency M.ops s.n u v)

/-- The triple of the snapshot that `FBKEY` is compared with and set to (R26 of 10, R228). -/
def State.snapKey (s : State α ω) : BankKey α := ⟨s.snap.levels, s.snap.fmin, s.snap.fmax⟩

/-- Run an operation for the levels `0, ..., k-1` in turn. -/
def State.forLevels (op : Nat → State α ω → State α ω) : Nat → State α ω → State α ω
  | 0, s => s
  | k + 1, s => op k (State.forLevels op k s)

/-- The expansion of GENFILT (R228): "`GENMASK M[i], #i`" for `i < L`, then `FBVALID <- 1`, `FBKEY <- (L, fmin, fmax)`. -/
def State.genFilt (s : State α ω) : State α ω :=
  { State.forLevels (fun i t => t.genMask M (.mask (levelIndex i)) i) s.snap.levels s with
    fbValid := true
    fbKey := s.snapKey }

/-- Step 1 of R229: regenerate "if `FBVALID = 0` or `FBKEY != (L, fmin, fmax)`". -/
def State.refreshBank [DecidableEq α] (s : State α ω) : State α ω :=
  if s.fbValid = true ∧ s.fbKey = s.snapKey then s else s.genFilt M

/-- The decomposer sequence (R229): bank, band extraction, per-band amplification (R226), accumulation. -/
def State.decompose [DecidableEq α] (s : State α ω) : State α ω :=
  let levels := s.snap.levels
  let s1 := State.forLevels
    (fun i t => (t.mulM M (.bcur (levelIndex i)) .scur (.mask (levelIndex i))).mulM M
      (.bprv (levelIndex i)) .sprv (.mask (levelIndex i))) levels (s.refreshBank M)
  let s2 := State.forLevels
    (fun i t => t.amplify M (.bprc (levelIndex i)) (.bcur (levelIndex i)) (.bprv (levelIndex i))) levels s1
  State.forLevels (fun i t => t.add M .smod .smod (.bprc (levelIndex i))) levels (s2.zero M .smod)

/-- GENMASK d, #i (R222). -/
def Meaning.genMask (d level : Byte) (s : State α ω) : Host.Outcome (State α ω) Fault Refusal :=
  s.finish do
    let (d, i) ← operandsLevel d level s
    return (s.genMask M d i).planeTouched d

/-- GENMASK d, #i (R222), in the machine that `step` runs. -/
def execGenMask (d level : Byte) (s : State) : Host.Outcome State Fault Refusal := Meaning.genMask binary32 d level s

/-- GENFILT (R228). -/
def Meaning.genFilt (s : State α ω) : Host.Outcome (State α ω) Fault Refusal :=
  s.finish do
    needSession s
    return s.genFilt M

/-- GENFILT (R228), in the machine that `step` runs. -/
def execGenFilt (s : State) : Host.Outcome State Fault Refusal := Meaning.genFilt binary32 s

end Sys2Proof.Machine
end

