-- ==== Sys2Proof/Machine/Tables.lean ====
section
/-! DEFINITION. The table commands TBL.BREV and TBL.TWID (R132, R133 of 40_spectral_primitives). -/

namespace Sys2Proof.Machine

variable {α ω : Type} (M : NumSystem α ω)

/-- "for all i in [0, N): BRT[i] <- reverseBits(i, LOGN)" (R132). -/
def State.fillBrt (s : State α ω) : State α ω := s.dispatchBrt fun i => reverseBits i s.logn.val

/-- "for all k in [0, N/2): TWT[k] <- ( cos(-2*pi*k/N), sin(-2*pi*k/N) )" (R133). -/
def State.fillTwt (s : State α ω) : State α ω := s.dispatchTwt fun k => twiddle M.ops s.n k

/-- TBL.BREV (R132). -/
def Meaning.tblBrev (s : State α ω) : Host.Outcome (State α ω) Fault Refusal :=
  s.finish do
    needSession s
    return s.fillBrt

/-- TBL.BREV (R132), in the machine that `step` runs. -/
def execTblBrev (s : State) : Host.Outcome State Fault Refusal := Meaning.tblBrev s

/-- TBL.TWID (R133). -/
def Meaning.tblTwid (s : State α ω) : Host.Outcome (State α ω) Fault Refusal :=
  s.finish do
    needSession s
    return s.fillTwt M

/-- TBL.TWID (R133), in the machine that `step` runs. -/
def execTblTwid (s : State) : Host.Outcome State Fault Refusal := Meaning.tblTwid binary32 s

end Sys2Proof.Machine
end

