-- ==== Sys2Proof/Machine/Orchestrator.lean ====
section
/-! DEFINITION. The orchestrator's commands NOP, INIT, SHUTDOWN, FRAME (R251 to R255 of 44_orchestrator). -/

namespace Sys2Proof.Machine

variable {α ω : Type} (M : NumSystem α ω)

/-- NOP (R251): "no dispatch, no state change". -/
def Meaning.nop (s : State α ω) : Host.Outcome (State α ω) Fault Refusal := .next s.complete

/-- NOP (R251), in the machine that `step` runs. -/
def execNop (s : State) : Host.Outcome State Fault Refusal := Meaning.nop s

/-- INIT's failure: "`STATE <- Uninitialized; FBVALID <- 0; N, LOGN <- undefined; every buffer and both tables <-
unspecified; abandon(e)`" (R252).
`FBKEY`, which then has no meaning (U2), keeps its value: DESIGN CHOICE (log 27). -/
def State.failInit (e : CmdError) (s : State α ω) : State α ω :=
  ({ s.forget.undefineCanvas with session := .uninitialized, fbValid := false }).abandon e

/-- INIT's success for a canvas of size `2^k` (R252).
`FBKEY`, which then has no meaning (U2), keeps its value: DESIGN CHOICE (log 27). -/
def State.startSession (k : Nat) (s : State α ω) : State α ω :=
  { ({ s.forget with logn := Fin.ofNat 17 k }).fillBrt.fillTwt M with
    pp := false, fbValid := false, session := .ready }

/-- INIT (R252). The precondition is checked before availability; `res_ok` is the draw of this INIT (U9; log 7). -/
def Meaning.init (s : State α ω) : Host.Outcome (State α ω) Fault Refusal :=
  let w := s.snap.canvasW.toNat
  let h := s.snap.canvasH.toNat
  if w ≠ h ∨ w < 2 ∨ isPowerOfTwo w = false then .next (s.failInit .precond)
  else if Config.lognMax < Nat.log2 w ∨ s.resDraw = false then .next (s.failInit .unavail)
  else .next (s.startSession M (Nat.log2 w)).complete

/-- INIT (R252), in the machine that `step` runs. -/
def execInit (s : State) : Host.Outcome State Fault Refusal := Meaning.init binary32 s

/-- SHUTDOWN (R253): "`STATE <- Uninitialized; FBVALID <- 0; PP <- 0; N, LOGN <- undefined; every buffer and both tables
<- unspecified`".
`FBKEY`, which then has no meaning (U2), keeps its value: DESIGN CHOICE (log 27). -/
def Meaning.shutdown (s : State α ω) : Host.Outcome (State α ω) Fault Refusal :=
  .next ({ s.forget.undefineCanvas with session := .uninitialized, fbValid := false, pp := false }).complete

/-- SHUTDOWN (R253), in the machine that `step` runs. -/
def execShutdown (s : State) : Host.Outcome State Fault Refusal := Meaning.shutdown s

/-- Step 2 of R255: the first frame is stored and passed through. -/
def State.firstFrame (s : State α ω) : State α ω :=
  { (s.copyP M .lprev .lin).copyP M .lout .lin with session := .steadyState }

/-- Step 9 of R255: the diagnostic plane; with both flags set `showMagnitude` wins. -/
def State.diagnose (s : State α ω) : State α ω :=
  if s.snap.showmag then s.toMag M .diag .smod
  else if s.snap.showph then s.toPhase M .diag .smod
  else s

/-- Steps 3 to 10 of R255. -/
def State.steadyFrame [DecidableEq α] (s : State α ω) : State α ω :=
  let s1 := (s.fftForward M .scur .lin).fftForward M .sprv .lprev
  let s2 := if s.snap.pyr then s1.decompose M else s1.amplify M .smod .scur .sprv
  ((s2.fftInverse M .lout .smod).diagnose M).copyP M .lprev .lin

/-- FRAME (R255). -/
def Meaning.frame [DecidableEq α] (s : State α ω) : Host.Outcome (State α ω) Fault Refusal :=
  s.finish
    (match s.session with
    | .uninitialized => .error .state
    | .ready => .ok (s.firstFrame M)
    | .steadyState => .ok (s.steadyFrame M))

/-- FRAME (R255), in the machine that `step` runs. -/
def execFrame (s : State) : Host.Outcome State Fault Refusal := Meaning.frame binary32 s

end Sys2Proof.Machine
end

