-- ==== Sys2Proof/Machine/Dispatch.lean ====
section
/-! DEFINITION. The dispatcher of the machine that `step` runs, which is `execOver binary32` (exec_eq_execOver, Laws/Step): one
arm per command, each one direct call of its meaning. -/

namespace Sys2Proof.Machine

def exec (i : Instr) (s : State) : Host.Outcome State Fault Refusal :=
  match i with
  | .nop => Sys2Proof.Machine.execNop s
  | .init => Sys2Proof.Machine.execInit s
  | .shutdown => Sys2Proof.Machine.execShutdown s
  | .frame => Sys2Proof.Machine.execFrame s
  | .tblBrev => Sys2Proof.Machine.execTblBrev s
  | .tblTwid => Sys2Proof.Machine.execTblTwid s
  | .widen d a => Sys2Proof.Machine.execWiden d a s
  | .center d a => Sys2Proof.Machine.execCenter d a s
  | .conj d a => Sys2Proof.Machine.execConj d a s
  | .scale d a => Sys2Proof.Machine.execScale d a s
  | .toMag d a => Sys2Proof.Machine.execToMag d a s
  | .toPhase d a => Sys2Proof.Machine.execToPhase d a s
  | .toReal d a => Sys2Proof.Machine.execToReal d a s
  | .copyP d a => Sys2Proof.Machine.execCopyP d a s
  | .copyS d a => Sys2Proof.Machine.execCopyS d a s
  | .zero d => Sys2Proof.Machine.execZero d s
  | .add d a b => Sys2Proof.Machine.execAdd d a b s
  | .mulM d a b => Sys2Proof.Machine.execMulM d a b s
  | .brevRow d a => Sys2Proof.Machine.execBrevRow d a s
  | .brevCol d a => Sys2Proof.Machine.execBrevCol d a s
  | .bflyRow d a st => Sys2Proof.Machine.execBflyRow d a st s
  | .bflyCol d a st => Sys2Proof.Machine.execBflyCol d a st s
  | .fftFwd d a => Sys2Proof.Machine.execFftFwd d a s
  | .fftInv d a => Sys2Proof.Machine.execFftInv d a s
  | .pamp d a b => Sys2Proof.Machine.execPamp d a b s
  | .genMask d level => Sys2Proof.Machine.execGenMask d level s
  | .genFilt => Sys2Proof.Machine.execGenFilt s

end Sys2Proof.Machine
end

