-- ==== Sys2Proof/Machine/Parametric.lean ====
section
/-! DEFINITION. The dispatcher over an arbitrary number system (R5, R6 of 00_scope, D2: "`Num` stays a parameter: OPEN"): one
arm per command, with the very meanings `exec` runs at `binary32`. -/

namespace Sys2Proof.Machine

/-- The effect of a command over the number system `M`. -/
def execOver {α ω : Type} [DecidableEq α] (M : NumSystem α ω) (i : Instr) (s : State α ω) :
    Host.Outcome (State α ω) Fault Refusal :=
  match i with
  | .nop => Meaning.nop s
  | .init => Meaning.init M s
  | .shutdown => Meaning.shutdown s
  | .frame => Meaning.frame M s
  | .tblBrev => Meaning.tblBrev s
  | .tblTwid => Meaning.tblTwid M s
  | .widen d a => Meaning.widen M d a s
  | .center d a => Meaning.center M d a s
  | .conj d a => Meaning.conj M d a s
  | .scale d a => Meaning.scale M d a s
  | .toMag d a => Meaning.toMag M d a s
  | .toPhase d a => Meaning.toPhase M d a s
  | .toReal d a => Meaning.toReal M d a s
  | .copyP d a => Meaning.copyP M d a s
  | .copyS d a => Meaning.copyS M d a s
  | .zero d => Meaning.zero M d s
  | .add d a b => Meaning.add M d a b s
  | .mulM d a b => Meaning.mulM M d a b s
  | .brevRow d a => Meaning.brevRow M d a s
  | .brevCol d a => Meaning.brevCol M d a s
  | .bflyRow d a st => Meaning.bflyRow M d a st s
  | .bflyCol d a st => Meaning.bflyCol M d a st s
  | .fftFwd d a => Meaning.fftFwd M d a s
  | .fftInv d a => Meaning.fftInv M d a s
  | .pamp d a b => Meaning.pamp M d a b s
  | .genMask d level => Meaning.genMask M d level s
  | .genFilt => Meaning.genFilt M s

end Sys2Proof.Machine
end

