-- ==== Sys2Proof/Machine/Sequencer.lean ====
section
/-! DEFINITION. The sequencer's turn: check, execute and complete the accepted command (R250 of 44_orchestrator). -/

namespace Sys2Proof.Machine

variable {α ω : Type} (M : NumSystem α ω)

/-- Run the command word in `CUR`. Checks 1 and 2 of R108 of 30 are the decoder's; a word that fails one is abandoned
with E_ILLCMD (R290 of 60). -/
def State.runCurrent [DecidableEq α] (s : State α ω) : Host.Outcome (State α ω) Fault Refusal :=
  match decode s.cur with
  | .ok i => execOver M i s
  | .error _ => .next (s.abandon .illcmd)

/-- The sequencer's turn: it runs the accepted command as one atomic step, as R84 of 20 allows, and does nothing when
the block is idle. -/
def State.sequence [DecidableEq α] (s : State α ω) : Host.Outcome (State α ω) Fault Refusal :=
  if s.busy then s.runCurrent M else .next s

end Sys2Proof.Machine
end

