-- ==== Sys2Proof/Machine/HostPort.lean ====
section
/-! DEFINITION. The host's register accesses: the register map (R32 of 10_state), `CMD` (R33), `STATUS` (R34, U13) and
the window (R76 to R79 of 20_memory). -/

namespace Sys2Proof.Machine

/-- The registers of the map (R32 of 10). -/
inductive RegName
  | cmd | status | errLog | ctrl | canvasW | canvasH | pyrLevels
  | minFreq | maxFreq | phaseScale | magThresh | magScale | lowCut | highCut | steepness | motionSens | edgeEnh
  | hbSel | hbIdx | hbRe | hbIm
deriving DecidableEq, Repr

/-- The register at a byte offset; the other offsets are reserved (R32). -/
def regAt (off : Nat) : Option RegName :=
  match off with
  | 0x00 => some .cmd
  | 0x04 => some .status
  | 0x08 => some .errLog
  | 0x0C => some .ctrl
  | 0x10 => some .canvasW
  | 0x14 => some .canvasH
  | 0x18 => some .pyrLevels
  | 0x20 => some .minFreq
  | 0x24 => some .maxFreq
  | 0x28 => some .phaseScale
  | 0x2C => some .magThresh
  | 0x30 => some .magScale
  | 0x34 => some .lowCut
  | 0x38 => some .highCut
  | 0x3C => some .steepness
  | 0x40 => some .motionSens
  | 0x44 => some .edgeEnh
  | 0x60 => some .hbSel
  | 0x64 => some .hbIdx
  | 0x68 => some .hbRe
  | 0x6C => some .hbIm
  | _ => none

/-! ## STATUS while a command runs (U13; log 11) -/

/-- A value between `a` and `b`, both included, drawn by `r`. -/
def drawBetween (a b r : Nat) : Nat := min a b + r % (max a b - min a b + 1)

section
variable {α ω : Type} (M : NumSystem α ω)

/-- Whether the running command changes `PP` before it ends: a transform macro that is not going to be abandoned, or a
FRAME that runs transforms, which it does in `SteadyState` only (R84 of 20, R169 of 41, R255 of 44). -/
def State.flipsParity (s : State α ω) : Bool :=
  match decode s.cur with
  | .ok (.fftFwd d a) => (operandsSP d a s).isOk
  | .ok (.fftInv d a) => (operandsPS d a s).isOk
  | .ok .frame => s.session == .steadyState
  | _ => false

/-- The state when the running command has completed. -/
def State.afterCommand [DecidableEq α] (s : State α ω) : State α ω :=
  match s.runCurrent M with
  | .next t => t
  | _ => s

/-- The `STATUS` word while `BUSY = 1`: "`BUSY` reads 1 and `LASTERR` reads 0", every other field is any value between
its value before the command and its value after (U13), and `PP` is any value while a command that changes it runs (R84).
What the command leaves is settled at its acceptance, so the bounds are the same at every read (log 7, 11). -/
def State.busyStatus [DecidableEq α] (s : State α ω) : Word :=
  let t := s.afterCommand M
  let pp := if s.flipsParity then decide (Config.transit s.draws 1 % 2 = 1)
    else decide (drawBetween s.pp.toNat t.pp.toNat (Config.transit s.draws 1) = 1)
  statusLayout true
    (drawBetween s.session.code t.session.code (Config.transit s.draws 0)) pp
    (decide (drawBetween s.fbValid.toNat t.fbValid.toNat (Config.transit s.draws 2) = 1)) 0
    (drawBetween s.lognField t.lognField (Config.transit s.draws 3))

/-! ## The window (R76 to R79 of 20) -/

/-- What an admitted window access acts on (R76). -/
inductive WindowTarget
  | plane (p : Plane)
  | spectrum (q : Spectrum)
  | table (t : Table)
deriving DecidableEq, Repr

/-- What the identifier `HB_SEL[7:0]` names (R40 of 10, R107 of 30). -/
def State.windowNamed (s : State α ω) : Option WindowTarget :=
  let id := s.regs.hbSel.extractLsb' 0 8
  ((planeOf id).map .plane).or (((spectrumOf id).map .spectrum).or ((tableOf id).map .table))

/-- How many elements the target has (R76). -/
def State.windowSize (s : State α ω) : WindowTarget → Nat
  | .plane _ => s.n * s.n
  | .spectrum _ => s.n * s.n
  | .table .brt => s.n
  | .table .twt => s.n / 2

/-- The target of an admitted window access: "`BUSY = 0`, `STATE != Uninitialized`, `id` is defined ..., and `i` is in
range" (R76); none when the access is refused. -/
def State.windowTarget (s : State α ω) : Option WindowTarget :=
  match s.windowNamed with
  | none => none
  | some t =>
    if s.busy = false ∧ s.session ≠ .uninitialized ∧ s.regs.hbIdx.toNat < s.windowSize t then some t else none

/-- What an admitted read of `HB_RE` (`im = false`) or `HB_IM` (`im = true`) returns (R76). -/
def State.windowWord (s : State α ω) (im : Bool) (t : WindowTarget) : ω :=
  let i := s.regs.hbIdx.toNat
  match t, im with
  | .plane p, false => M.enc (s.planeElem M p i)
  | .plane _, true => M.ofWord 0
  | .spectrum q, false => M.enc (s.specElem M q i).re
  | .spectrum q, true => M.enc (s.specElem M q i).im
  | .table .brt, false => M.ofWord (BitVec.ofNat 32 (s.brtEntry i))
  | .table .brt, true => M.ofWord 0
  | .table .twt, false => M.enc (s.twtEntry M i).re
  | .table .twt, true => M.enc (s.twtEntry M i).im

/-- A window read (R76); a refused one sets `ERRLOG[7]` and returns an unspecified word (R78, U3; log 9). -/
def State.windowRead (im : Bool) (s : State α ω) : State α ω :=
  match s.windowTarget with
  | some t => { s with rdata := s.windowWord M im t }
  | none => { s.logError hostAccCode with rdata := M.ofWord (Config.refusedRead s.draws), draws := s.draws + 1 }

/-- A window write (R77); one that is not admitted is dropped and sets `ERRLOG[7]` (R78). What is no finite
number is refused by the model where it would be stored (U7; log 16). -/
def State.windowWrite (im : Bool) (w : ω) (s : State α ω) : Host.Outcome (State α ω) Fault Refusal :=
  let i := s.regs.hbIdx.toNat
  match s.windowTarget, im with
  | none, _ => .next (s.logError hostAccCode)
  | some (.table _), _ => .next (s.logError hostAccCode)
  | some (.plane p), true => .next (s.planeTouched p)
  | some (.plane p), false =>
    match M.dec w with
    | some v => .next ((s.writePlane p i v).planeTouched p)
    | none => .refused .notFinite
  | some (.spectrum q), _ =>
    match M.dec w with
    | some v => .next (s.writeSpec q i
        (if im then { s.specElem M q i with im := v } else { s.specElem M q i with re := v }))
    | none => .refused .notFinite

/-! ## Register accesses (R73 of 20) -/

/-- `RegRead` of a register of the map: the new state, with what it returns in `rdata`. -/
def State.readReg [DecidableEq α] (r : RegName) (s : State α ω) : State α ω :=
  match r with
  | .cmd => { s with rdata := M.ofWord 0 }
  | .status =>
    if s.busy then { s with rdata := M.ofWord (s.busyStatus M), draws := s.draws + 1 }
    else { s with rdata := M.ofWord s.statusWord }
  | .errLog => { s with rdata := M.ofWord s.errLog }
  | .ctrl => { s with rdata := M.ofWord s.regs.ctrl }
  | .canvasW => { s with rdata := M.ofWord s.regs.canvasW }
  | .canvasH => { s with rdata := M.ofWord s.regs.canvasH }
  | .pyrLevels => { s with rdata := M.ofWord s.regs.pyrLevels }
  | .minFreq => { s with rdata := s.regs.minFreq }
  | .maxFreq => { s with rdata := s.regs.maxFreq }
  | .phaseScale => { s with rdata := s.regs.phaseScale }
  | .magThresh => { s with rdata := s.regs.magThresh }
  | .magScale => { s with rdata := s.regs.magScale }
  | .lowCut => { s with rdata := s.regs.lowCut }
  | .highCut => { s with rdata := s.regs.highCut }
  | .steepness => { s with rdata := s.regs.steepness }
  | .motionSens => { s with rdata := s.regs.motionSens }
  | .edgeEnh => { s with rdata := s.regs.edgeEnh }
  | .hbSel => { s with rdata := M.ofWord s.regs.hbSel }
  | .hbIdx => { s with rdata := M.ofWord s.regs.hbIdx }
  | .hbRe => s.windowRead M false
  | .hbIm => s.windowRead M true

/-- A write of a numeric register: always accepted, at once (R37 of 10), for what is a number; the model refuses what is
not (U7; log 16). -/
def State.writeNum (x : ω) (s : State α ω) (r : Regs ω) : Host.Outcome (State α ω) Fault Refusal :=
  if (M.dec x).isSome then .next { s with regs := r } else .refused .notFinite

/-- A write that needs a 32-bit word (R32 of 10); in `binary32` every access carries one (log 28). -/
def withWord (x : ω) (f : Word → State α ω) : Host.Outcome (State α ω) Fault Refusal :=
  match M.toWord x with
  | some w => .next (f w)
  | none => .refused .notWord

/-- `RegWrite` of a register of the map (R32, R33, R37). -/
def State.writeReg (r : RegName) (x : ω) (s : State α ω) : Host.Outcome (State α ω) Fault Refusal :=
  match r with
  | .cmd => if s.busy then .next (s.logError overrunCode) else withWord M x fun w => s.accept M w
  | .status => .next s
  | .errLog => .next s
  | .ctrl => withWord M x fun w => { s with regs := { s.regs with ctrl := w } }
  | .canvasW => withWord M x fun w => { s with regs := { s.regs with canvasW := w } }
  | .canvasH => withWord M x fun w => { s with regs := { s.regs with canvasH := w } }
  | .pyrLevels => withWord M x fun w => { s with regs := { s.regs with pyrLevels := w } }
  | .minFreq => s.writeNum M x { s.regs with minFreq := x }
  | .maxFreq => s.writeNum M x { s.regs with maxFreq := x }
  | .phaseScale => s.writeNum M x { s.regs with phaseScale := x }
  | .magThresh => s.writeNum M x { s.regs with magThresh := x }
  | .magScale => s.writeNum M x { s.regs with magScale := x }
  | .lowCut => s.writeNum M x { s.regs with lowCut := x }
  | .highCut => s.writeNum M x { s.regs with highCut := x }
  | .steepness => s.writeNum M x { s.regs with steepness := x }
  | .motionSens => s.writeNum M x { s.regs with motionSens := x }
  | .edgeEnh => s.writeNum M x { s.regs with edgeEnh := x }
  | .hbSel => withWord M x fun w => { s with regs := { s.regs with hbSel := w } }
  | .hbIdx => withWord M x fun w => { s with regs := { s.regs with hbIdx := w } }
  | .hbRe => s.windowWrite M false x
  | .hbIm => s.windowWrite M true x

/-- What every access needs before it acts: an offset that exists and is a multiple of 4 (R32, R73, U6). -/
def atOffset (off : Nat) (act : Option RegName → Host.Outcome (State α ω) Fault Refusal) :
    Host.Outcome (State α ω) Fault Refusal :=
  if 256 ≤ off then .fault .noSuchOffset
  else if off % 4 ≠ 0 then .refused .misalignedAccess
  else act (regAt off)

/-- One access of the host. A reserved offset "reads 0 and ignores writes" (R32). -/
def State.hostAccess [DecidableEq α] (x : HostAccess ω) (s : State α ω) : Host.Outcome (State α ω) Fault Refusal :=
  match x with
  | .read off => atOffset off fun r =>
    match r with
    | some r => .next (s.readReg M r)
    | none => .next { s with rdata := M.ofWord 0 }
  | .write off y => atOffset off fun r =>
    match r with
    | some r => s.writeReg M r y
    | none => .next s
  | .otherWidth off _ => atOffset off fun _ => .refused .accessWidth

/-- The reset event (R310, R311 of 70): every piece of the spec's state at its reset value, whether or not a command
runs, and new arbitrary content everywhere. The inputs to come and the level of `res_ok` are not the block's (log 20). -/
def State.resetEvent (s : State α ω) : State α ω :=
  { State.initial (M.ops.ofNat 0) (M.ofWord 0) M.resetRegs with
    agenda := s.agenda, resOk := s.resOk, epoch := s.epoch + 1, draws := s.draws }

/-- One turn of the schedule (log 12). -/
def State.takeTurn [DecidableEq α] (t : Turn ω) (s : State α ω) : Host.Outcome (State α ω) Fault Refusal :=
  match t with
  | .host x => s.hostAccess M x
  | .seq => s.sequence M
  | .reset => .next (s.resetEvent M)
  | .resources ok => .next { s with resOk := ok }

/-- Where a command comes from: the state in which word `w` has been accepted and the sequencer's turn is next. -/
def State.withCommand (s : State α ω) (w : Word) : State α ω :=
  { s.accept M w with agenda := .seq :: s.agenda }

end

end Sys2Proof.Machine
end

