-- ==== Sys2Proof/Machine/Step.lean ====
section
/-! DEFINITION. One step of the machine: the next turn of the agenda, or the sequencer's when the agenda is empty. -/

namespace Sys2Proof.Machine

/-- One step over the number system `M` (log 12). With no turn left, the sequencer finishes the command it has, and an idle
block stays as it is ("after reset the block is idle and waits for host accesses", R312 of 70). -/
def stepOver {α ω : Type} [DecidableEq α] (M : NumSystem α ω) (s : State α ω) : Host.Outcome (State α ω) Fault Refusal :=
  match s.agenda with
  | [] => s.sequence M
  | t :: rest => State.takeTurn M t { s with agenda := rest }

/-- One step of the machine over the numbers of the storage format. -/
def step (s : State) : Host.Outcome State Fault Refusal := stepOver binary32 s

/-- The command word with bits `w` accepted from `CMD`, the sequencer's turn next: the very next step runs it (log 12). -/
def State.withFetchWord (s : State) (nbits w : Nat) : State := s.withCommand binary32 (BitVec.ofNat 32 (w % 2 ^ nbits))

end Sys2Proof.Machine
end

