-- ==== Sys2Proof/Machine/Reference.lean ====
section
/-! DEFINITION. The reference instance of the machine: the real numbers (R5, R6, R14 of 00_scope). `execOver` and `stepOver`
run at it exactly as they do at `binary32`; what the rules say over exact real numbers is stated of it. -/

namespace Sys2Proof

/-- The pair as a complex number. -/
def Cplx.toComplex (z : Cplx ℝ) : ℂ := ⟨z.re, z.im⟩

end Sys2Proof

namespace Sys2Proof.Machine

/-- "the instance over the reals is the one the rules describe" (R6); the elementary functions are those of R14:
`atan2(i, r)` is the argument of `(r, i)` in `(-pi, pi]`, 0 at the origin. -/
noncomputable def realNumerics : Numerics ℝ where
  add x y := x + y
  sub x y := x - y
  mul x y := x * y
  div x y := x / y
  neg x := -x
  sqrt x := Real.sqrt x
  atan2 i r := Complex.arg ⟨r, i⟩
  cos x := Real.cos x
  sin x := Real.sin x
  ofNat n := n
  lt x y := decide (x < y)

/-- The word a real number stands for where a register holds a word: the natural number it is, below `2^32` (log 28). -/
noncomputable def realToWord (x : ℝ) : Option Word :=
  let w : Word := BitVec.ofInt 32 ⌊x⌋
  if (w.toNat : ℝ) = x then some w else none

/-- The reset values of R37 of 10 as the real numbers they are. -/
noncomputable def realResetRegs : Regs ℝ where
  ctrl := 0
  canvasW := 0
  canvasH := 0
  pyrLevels := 5
  minFreq := 0.05
  maxFreq := 0.45
  phaseScale := 1
  magThresh := 0
  magScale := 1
  lowCut := 0.05
  highCut := 0.4
  steepness := 3
  motionSens := 1
  edgeEnh := 0
  hbSel := 0
  hbIdx := 0

/-- `M` is a reference instance: its record is that of the reals, `TOL` is 0 (R5), "the window carries the real number itself
and `enc` is the identity" (R75 of 20), numeric registers hold real numbers (R5), from reset those of R37, and what R5 and
R195 leave open is anything within their bounds. A word among the real numbers is the natural number it stands for
(DESIGN CHOICE, log 28). -/
structure IsReference (M : NumSystem ℝ ℝ) : Prop where
  ops : M.ops = realNumerics
  eps_pos : 0 < M.cfgEps
  eps_le : M.cfgEps ≤ 1 / 8
  grad_nonneg : ∀ mags u v n, 0 ≤ M.gradMag mags u v n
  tol : M.tol = 0
  enc : ∀ v, M.enc v = v
  dec : ∀ x, M.dec x = some x
  ofWord : ∀ w, M.ofWord w = (w.toNat : ℝ)
  toWord : ∀ x, M.toWord x = realToWord x
  resetRegs : M.resetRegs = realResetRegs

/-- What R14 and R5 ask of every instance: "The fixed points every instance must honour are those of rule R14 (atan2 at the
origin and on the negative real axis)" (R6), `0 < CFG_EPS <= 1/8` and `TOL` not negative (R5), `GRADMAG` not negative
(R195 of 42). -/
structure NumSystem.Lawful {α ω : Type} (M : NumSystem α ω) : Prop where
  atan2_origin : M.ops.atan2 (M.ops.ofNat 0) (M.ops.ofNat 0) = M.ops.ofNat 0
  atan2_negative : ∀ r, M.ops.lt r (M.ops.ofNat 0) = true → M.ops.atan2 (M.ops.ofNat 0) r = M.ops.pi
  eps_pos : M.ops.lt (M.ops.ofNat 0) M.cfgEps = true
  eps_le : M.ops.lt (M.ops.div (M.ops.ofNat 1) (M.ops.ofNat 8)) M.cfgEps = false
  grad_nonneg : ∀ mags u v n, M.ops.lt (M.gradMag mags u v n) (M.ops.ofNat 0) = false
  tol_nonneg : 0 ≤ M.tol

/-- A reference instance with the given open parameters. -/
noncomputable def realSystem (eps : ℝ) (grad : List ℝ → Nat → Nat → Nat → ℝ) (unwritten : Nat → Nat → Nat → ℝ) :
    NumSystem ℝ ℝ where
  ops := realNumerics
  cfgEps := eps
  gradMag := grad
  tol := 0
  enc v := v
  dec x := some x
  ofWord w := (w.toNat : ℝ)
  toWord := realToWord
  resetRegs := realResetRegs
  unwritten := unwritten
  notFinite x := x

/-! ## The transforms of R166 of 41 -/

/-- `F1(z)[u] = sum over x in [0, N) of z[x] * exp(-2*pi*i*u*x/N)`. -/
noncomputable def transform (n : Nat) (z : Nat → ℂ) (u : Nat) : ℂ :=
  ∑ x ∈ Finset.range n, z x * Complex.exp (-2 * Real.pi * Complex.I * (u * x / n))

/-- `F(a)[u, v] = sum over y, x in [0, N) of a[x, y] * exp(-2*pi*i*(u*x + v*y)/N)`. -/
noncomputable def transform2 (n : Nat) (a : Nat → Nat → ℂ) (u v : Nat) : ℂ :=
  ∑ y ∈ Finset.range n, ∑ x ∈ Finset.range n, a x y * Complex.exp (-2 * Real.pi * Complex.I * ((u * x + v * y) / n))

/-- The line after the bit-reversal permute and `k` butterfly passes, for lines of length `2^n`. -/
noncomputable def linePasses (n : Nat) (z : Nat → Cplx ℝ) : Nat → Nat → Cplx ℝ
  | 0, x => z (reverseBits x n)
  | k + 1, x => butterfly realNumerics (2 ^ n) (k + 1) (twiddle realNumerics (2 ^ n)) (linePasses n z k) x

end Sys2Proof.Machine
end

