-- ==== Sys2Proof/WellFormed.lean ====
section
/-! DEFINITION. Well-formed commands: the checks of R108 of 30_encoding that do not depend on the state. -/

namespace Sys2Proof

/-- Check 3 of R108: every buffer operand is a defined identifier of the kind the row requires (R104). -/
def Instr.kindsOk : Instr → Bool
  | .nop | .init | .shutdown | .frame | .tblBrev | .tblTwid | .genFilt => true
  | .widen d a | .fftFwd d a => (spectrumOf d).isSome && (planeOf a).isSome
  | .center d a | .conj d a | .scale d a | .copyS d a | .brevRow d a | .brevCol d a =>
    (spectrumOf d).isSome && (spectrumOf a).isSome
  | .toMag d a | .toPhase d a | .toReal d a | .fftInv d a => (planeOf d).isSome && (spectrumOf a).isSome
  | .copyP d a => (planeOf d).isSome && (planeOf a).isSome
  | .zero d => (spectrumOf d).isSome
  | .add d a b | .pamp d a b => (spectrumOf d).isSome && (spectrumOf a).isSome && (spectrumOf b).isSome
  | .mulM d a b => (spectrumOf d).isSome && (spectrumOf a).isSome && (planeOf b).isSome
  | .bflyRow d a _ | .bflyCol d a _ => (spectrumOf d).isSome && (spectrumOf a).isSome
  | .genMask d _ => (planeOf d).isSome

/-- The part of check 5 of R108 that holds in every state: a butterfly stage is at least 1. -/
def Instr.stageOk : Instr → Bool
  | .bflyRow _ _ s | .bflyCol _ _ s => decide (1 ≤ s.toNat)
  | .nop | .init | .shutdown | .frame | .tblBrev | .tblTwid | .genFilt | .widen _ _ | .fftFwd _ _ | .center _ _
  | .conj _ _ | .scale _ _ | .copyS _ _ | .brevRow _ _ | .brevCol _ _ | .toMag _ _ | .toPhase _ _ | .toReal _ _
  | .fftInv _ _ | .copyP _ _ | .zero _ | .add _ _ _ | .pamp _ _ _ | .mulM _ _ _ | .genMask _ _ => true

/-- Check 6 of R108: a class G command's destination differs from its sources (R283 of 60). -/
def Instr.distinctOk : Instr → Bool
  | .brevRow d a | .brevCol d a | .bflyRow d a _ | .bflyCol d a _ => decide (d ≠ a)
  | .pamp d a b => decide (d ≠ a) && decide (d ≠ b)
  | .nop | .init | .shutdown | .frame | .tblBrev | .tblTwid | .genFilt | .widen _ _ | .fftFwd _ _ | .center _ _
  | .conj _ _ | .scale _ _ | .copyS _ _ | .toMag _ _ | .toPhase _ _ | .toReal _ _ | .fftInv _ _ | .copyP _ _
  | .zero _ | .add _ _ _ | .mulM _ _ _ | .genMask _ _ => true

/-- No state-independent check of R108 fails. -/
def Instr.wf (i : Instr) : Bool := i.kindsOk && i.stageOk && i.distinctOk

end Sys2Proof
end

