-- ==== Sys2Proof/Safety.lean ====
section
/-! DEFINITION. The terms in which statements speak of runs: what a command writes and leaves, and the invariants. -/

namespace Sys2Proof.Machine

variable {α ω : Type} (M : NumSystem α ω)

/-! ## What a completed command writes, and its frame -/

/-- Element indices a session's buffers can have (R131 of 40: every index is below `2^32`). -/
abbrev validIndex (idx : Nat) : Prop := idx < 2 ^ 32

/-- `t` is `s` after a command of one dispatch that writes `f x y` at every `(x, y)` of the spectrum `d`: every other
element of every buffer reads as before, `BUSY` is 0, one dispatch is counted, and every other field is unchanged. -/
structure WritesSpectrum (s t : State α ω) (d : Spectrum) (f : Nat → Nat → Cplx α) : Prop where
  written : ∀ x y, x < s.n → y < s.n → t.specAt M d x y = f x y
  otherSpectra : ∀ q idx, validIndex idx → ¬ (q = d ∧ idx < s.n * s.n) → t.specElem M q idx = s.specElem M q idx
  planesKept : ∀ p idx, t.planeElem M p idx = s.planeElem M p idx
  rest : { t with spectra := s.spectra, busy := s.busy, ustep := s.ustep } = s
  idle : t.busy = false
  counted : t.ustep = s.ustep + 1

/-- As `WritesSpectrum`, for a plane `d`; `FBVALID` is cleared when `d` is a plane of the filter bank (R231 of 43), and
only then (`FBKEY`, which then has no meaning, keeps its value by the model's choice: log 27). -/
structure WritesPlane (s t : State α ω) (d : Plane) (f : Nat → Nat → α) : Prop where
  written : ∀ x y, x < s.n → y < s.n → t.planeAt M d x y = f x y
  otherPlanes : ∀ p idx, validIndex idx → ¬ (p = d ∧ idx < s.n * s.n) → t.planeElem M p idx = s.planeElem M p idx
  spectraKept : ∀ q idx, t.specElem M q idx = s.specElem M q idx
  bankMask : (∃ i, d = .mask i) → t.fbValid = false
  bankOther : (∀ i, d ≠ .mask i) → t.fbValid = s.fbValid
  rest : { t with planes := s.planes, busy := s.busy, ustep := s.ustep, fbValid := s.fbValid } = s
  idle : t.busy = false
  counted : t.ustep = s.ustep + 1

/-- `t` is `s` with the command abandoned with the error code `e` (R250 of 44, R286 of 60): only `LASTERR`, `ERRLOG` and
`BUSY` change, and of `ERRLOG` only bit `e`, which is 1. -/
structure AbandonedWith (s t : State α ω) (e : Nat) : Prop where
  code : t.lastErr = BitVec.ofNat 4 e
  logged : ∀ k, k < 32 → t.errLog.getLsbD k = (s.errLog.getLsbD k || decide (k = e))
  idle : t.busy = false
  rest : { t with lastErr := s.lastErr, errLog := s.errLog, busy := s.busy } = s

/-- "Errors: decode only" (R12 of 00, R108 of 30): a bad buffer operand abandons with E_ILLCMD, and a command with good
operands and no session abandons with E_STATE. -/
def DecodeOnlyErrors (i : Instr) (s : State) : Prop :=
  (i.kindsOk = false → ∃ t, exec i s = .next t ∧ AbandonedWith s t 3)
  ∧ (i.kindsOk = true → s.session = .uninitialized → ∃ t, exec i s = .next t ∧ AbandonedWith s t 4)

/-- A session ended by INIT or SHUTDOWN: "every buffer and both tables <- unspecified", `STATE` Uninitialized, `FBVALID` 0
(R252, R253 of 44). Everything but the listed fields is unchanged; of `FBKEY`, which has no meaning then, that is the model's
choice (log 27). -/
structure SessionEnded (s t : State α ω) : Prop where
  session : t.session = .uninitialized
  bank : t.fbValid = false
  forgotten : t.planes = [] ∧ t.spectra = [] ∧ t.brt = [] ∧ t.twt = [] ∧ t.epoch = s.epoch + 1
  rest : { t with
    session := s.session, fbValid := s.fbValid, logn := s.logn, draws := s.draws, pp := s.pp
    planes := s.planes, spectra := s.spectra, brt := s.brt, twt := s.twt, epoch := s.epoch
    lastErr := s.lastErr, errLog := s.errLog, busy := s.busy } = s

/-- A session of canvas size `2^k` started by INIT (R252 of 44): the tables hold their content, every buffer is
unspecified, and everything but the listed fields is unchanged; of `FBKEY`, which has no meaning then, that is the
model's choice (log 27). -/
structure SessionStarted (s t : State α ω) (k : Nat) : Prop where
  session : t.session = .ready
  canvas : t.logn.val = k
  flags : t.pp = false ∧ t.fbValid = false ∧ t.busy = false
  forgotten : t.planes = [] ∧ t.spectra = [] ∧ t.epoch = s.epoch + 1
  brt : ∀ i, i < 2 ^ k → t.brtEntry i = reverseBits i k
  twt : ∀ j, j < 2 ^ k / 2 → t.twtEntry M j = twiddle M.ops (2 ^ k) j
  counted : t.ustep = s.ustep + 2
  rest : { t with
    session := s.session, fbValid := s.fbValid, logn := s.logn, pp := s.pp, ustep := s.ustep, busy := s.busy
    planes := s.planes, spectra := s.spectra, brt := s.brt, twt := s.twt, epoch := s.epoch } = s

/-! ## Sequences of commands -/

/-- Run commands one after the other, as a host that issues them and waits does (R111 of 30). -/
def runCommands : List Instr → State → Host.Outcome State Fault Refusal
  | [], s => .next s
  | i :: r, s =>
    match exec i s with
    | .next t => runCommands r t
    | o => o

/-- The identifier of `W0` after an even number of ping-pong flips, of `W1` after an odd one (R169 of 41). -/
def workByte (flips : Nat) : Byte := if flips % 2 = 0 then 0x40 else 0x41

/-- The permutes and passes of both transform macros for `LOGN = n`, as commands (R170, R172 of 41). -/
def passCommands (n : Nat) : List Instr :=
  [.brevRow (workByte 1) (workByte 0)]
  ++ (List.range n).map (fun k => .bflyRow (workByte (k + 2)) (workByte (k + 1)) (BitVec.ofNat 8 (k + 1)))
  ++ [.brevCol (workByte (n + 2)) (workByte (n + 1))]
  ++ (List.range n).map (fun k => .bflyCol (workByte (n + k + 3)) (workByte (n + k + 2)) (BitVec.ofNat 8 (k + 1)))

/-- The expansion table of FFT.FWD as commands (R170 of 41). -/
def forwardCommands (n : Nat) (d a : Byte) : List Instr :=
  [.widen 0x40 a, .center 0x40 0x40] ++ passCommands n ++ [.copyS d 0x40]

/-- The expansion table of FFT.INV as commands (R172 of 41). -/
def inverseCommands (n : Nat) (d a : Byte) : List Instr :=
  [.conj 0x40 a] ++ passCommands n ++ [.conj 0x40 0x40, .scale 0x40 0x40, .center 0x40 0x40, .toReal d 0x40]

/-- The expansion of GENFILT for `L` levels as commands (R228 of 43). -/
def bankCommands (levels : Nat) : List Instr :=
  (List.range levels).map fun i => .genMask (BitVec.ofNat 8 (0x20 + i)) (BitVec.ofNat 8 i)

/-- Steps 2 to 4 of the decomposer sequence for `L` levels as commands (R229 of 43). -/
def bandCommands (levels : Nat) : List Instr :=
  (List.range levels).flatMap (fun i =>
    [.mulM (BitVec.ofNat 8 (0x60 + i)) 0x42 (BitVec.ofNat 8 (0x20 + i)),
     .mulM (BitVec.ofNat 8 (0x80 + i)) 0x43 (BitVec.ofNat 8 (0x20 + i))])
  ++ (List.range levels).map (fun i =>
    .pamp (BitVec.ofNat 8 (0xA0 + i)) (BitVec.ofNat 8 (0x60 + i)) (BitVec.ofNat 8 (0x80 + i)))
  ++ [.zero 0x44]
  ++ (List.range levels).map (fun i => .add 0x44 0x44 (BitVec.ofNat 8 (0xA0 + i)))

/-- Step 9 of R255 of 44 as commands. -/
def diagnosticCommands (p : Params α) : List Instr :=
  if p.showmag then [.toMag 0x03 0x44] else if p.showph then [.toPhase 0x03 0x44] else []

/-- Steps 3 to 10 of R255 of 44 as commands, with the given steps 5 and 6. -/
def frameCommands (p : Params α) (middle : List Instr) : List Instr :=
  [.fftFwd 0x42 0x00, .fftFwd 0x43 0x01] ++ middle ++ [.fftInv 0x02 0x44] ++ diagnosticCommands p
  ++ [.copyP 0x01 0x00]

/-! ## Host accesses -/

/-- The registers R32 of 10 marks RW, other than the window's data registers, as (offset, holds a `Num`). -/
def rwRegisters : List (Nat × Bool) :=
  [(0x0C, false), (0x10, false), (0x14, false), (0x18, false), (0x20, true), (0x24, true), (0x28, true), (0x2C, true),
   (0x30, true), (0x34, true), (0x38, true), (0x3C, true), (0x40, true), (0x44, true), (0x60, false), (0x64, false)]

/-- What a register read returns, with the state it leaves otherwise unchanged. -/
def ReadsAs [DecidableEq α] (s : State α ω) (off : Nat) (x : ω) : Prop :=
  s.hostAccess M (.read off) = .next { s with rdata := x }

/-- The conditions of R76 of 20 for element `i` of a selection with `size` elements. -/
def Admits (s : State α ω) (size : Nat) : Prop :=
  s.busy = false ∧ s.session ≠ .uninitialized ∧ s.regs.hbIdx.toNat < size

/-- `HB_SEL[7:0]`. -/
def selectedId (s : State α ω) : Byte := s.regs.hbSel.extractLsb' 0 8

/-! ## Turns -/

/-- It is the sequencer's turn: the agenda says so, or is empty (log 12). -/
def SequencerTurn (s : State α ω) : Prop := s.agenda = [] ∨ s.agenda.head? = some .seq

/-! ## Invariants -/

/-- The four memories keep their canonical form. -/
def CanonicalMemories (s : State α ω) : Prop :=
  s.planes.wf = true ∧ s.spectra.wf = true ∧ s.brt.wf = true ∧ s.twt.wf = true

/-- In a session `1 <= LOGN <= LOGN_MAX` (R5 of 00, R252 of 44) and the tables hold the content of R30 of 10. -/
def SessionTables (s : State α ω) : Prop :=
  s.session ≠ .uninitialized →
    1 ≤ s.logn.val ∧ s.logn.val ≤ Config.lognMax
    ∧ (∀ i, i < s.n → s.brtEntry i = reverseBits i s.logn.val)
    ∧ (∀ k, k < s.n / 2 → s.twtEntry M k = twiddle M.ops s.n k)

/-- "`FBVALID = 1` implies that `M[0..L'-1]` hold exactly the masks of rule R221 for the triple in `FBKEY`, `L'` being its
first component" (R231 of 43), and that a session exists. -/
def BankHonest (s : State α ω) : Prop :=
  s.fbValid = true →
    s.session ≠ .uninitialized ∧ s.fbKey.levels ≤ Config.pyrMax
    ∧ ∀ i, i < s.fbKey.levels → ∀ u v, u < s.n → v < s.n →
      s.planeAt M (.mask (levelIndex i)) u v
        = bandMask M.ops s.fbKey.levels s.fbKey.fmin s.fbKey.fmax i (radialFrequency M.ops s.n u v)

/-- A running command has its snapshot's level count within R38 of 10 and no error yet (R250 of 44). -/
def RunningSound (s : State α ω) : Prop :=
  s.busy = true → 1 ≤ s.snap.levels ∧ s.snap.levels ≤ Config.pyrMax ∧ s.lastErr = 0

/-- `PP` is 0 between commands (R169 of 41), `LASTERR` holds a code of R280 of 60 that a command can have, and `ERRLOG` has
bit 0 and bits 31 to 8 clear (R35 of 10). -/
def FlagsLegal (s : State α ω) : Prop :=
  s.pp = false ∧ s.lastErr.toNat ≤ 5 ∧ ∀ k, k < 32 → s.errLog.getLsbD k = true → 1 ≤ k ∧ k ≤ 7

/-! ## The tolerance -/

/-- `M` is acceptable (U10 of 93: "any other instance is acceptable to DOC0 if the §8 properties hold within `TOL`"), with
`value` the real number that stands for a scalar. S1, S3 to S6 of 95; S2 speaks of integers and S7 gives no numbers. Samples
are normalized to [0, 1] where S1 says so; the configurations of S5 and S6 are those the registers
hold at reset (log 25). -/
structure Acceptable [DecidableEq α] (value : α → ℝ) : Prop where
  /-- S1: the inverse transform of the forward transform of a plane is the plane. -/
  roundTrip : ∀ (s t u : State α ω) (q d a : Byte) (sq : Spectrum) (dp ap : Plane),
    spectrumOf q = some sq → planeOf d = some dp → planeOf a = some ap →
    s.session ≠ .uninitialized → SessionTables M s →
    (∀ x y, x < s.n → y < s.n → 0 ≤ value (s.planeAt M ap x y) ∧ value (s.planeAt M ap x y) ≤ 1) →
    execOver M (.fftFwd q a) s = .next t → execOver M (.fftInv d q) t = .next u →
    ∀ x y, x < s.n → y < s.n → |value (u.planeAt M dp x y) - value (s.planeAt M ap x y)| ≤ M.tol
  /-- S3: the energy of the spectrum is `N*N` times that of the plane (R173 (b) of 41). -/
  energy : ∀ (s t : State α ω) (q a : Byte) (sq : Spectrum) (ap : Plane),
    spectrumOf q = some sq → planeOf a = some ap → s.session ≠ .uninitialized → SessionTables M s →
    (∀ x y, x < s.n → y < s.n → 0 ≤ value (s.planeAt M ap x y) ∧ value (s.planeAt M ap x y) ≤ 1) →
    execOver M (.fftFwd q a) s = .next t →
    |(∑ v ∈ Finset.range s.n, ∑ u ∈ Finset.range s.n,
        (value (t.specAt M sq u v).re ^ 2 + value (t.specAt M sq u v).im ^ 2)) / (s.n * s.n : ℕ)
      - ∑ y ∈ Finset.range s.n, ∑ x ∈ Finset.range s.n, value (s.planeAt M ap x y) ^ 2| ≤ M.tol
  /-- S4: the amplifier leaves a bin that did not move (R201 of 42; `edges = 0` and `mscale = 1`). -/
  zeroMotion : ∀ (P : Params α) (f grad : α) (c : Cplx α), P.edges = false → P.mscale = M.ops.ofNat 1 →
    |value (ampBin M.ops P f grad c c).re - value c.re| ≤ M.tol
    ∧ |value (ampBin M.ops P f grad c c).im - value c.im| ≤ M.tol
  /-- S5: the five masks of the default configuration, the reset values of R37 of 10, sum to 1 at every frequency. -/
  bandSum : ∀ fmin fmax f : α, M.dec M.resetRegs.minFreq = some fmin → M.dec M.resetRegs.maxFreq = some fmax →
    |((List.range 5).map fun i => value (bandMask M.ops 5 fmin fmax i f)).sum - 1| ≤ M.tol
  /-- S6: the gate for the cutoffs and the steepness of DOC0 §8's gate test, which are the reset values of R37 of 10, is 0 at
  the frequency 0.02 and 1 at 0.2. -/
  gateEdges : ∀ lo hi steep f f' : α, M.dec M.resetRegs.lowCut = some lo → M.dec M.resetRegs.highCut = some hi →
    M.dec M.resetRegs.steepness = some steep → |value f - 0.02| ≤ M.tol → |value f' - 0.2| ≤ M.tol →
    |value (gate M.ops lo hi steep f)| ≤ M.tol ∧ |value (gate M.ops lo hi steep f') - 1| ≤ M.tol

end Sys2Proof.Machine
end

