-- ==== Sys2Proof/Certificates/Slice0/Obligations.lean ====
section
/-! DEFINITION. The statements for the provers. Each docstring names the rule it formalises. -/

open Sys2Proof Sys2Proof.Machine

/-! ## Encoding and decoding (30_encoding) -/

/-- R100 to R105 of 30: a word is read as a command exactly when it is that command's encoding. -/
def Obligations.DecodeAndEncodeAgree : Prop := ∀ (w : Word) (i : Instr), decode w = .ok i ↔ encode i = w

/-- R105 of 30: no word selects two rows of the opcode table; a word is a command exactly when it selects a row; and
the row it selects carries the opcode of the command it is read as. -/
def Obligations.WordSelectsAtMostOneRow : Prop :=
  ∀ w : Word,
    (opcodeRows.filter fun r => r.selects w).length ≤ 1
    ∧ ((∃ i, decode w = .ok i) ↔ ∃ r ∈ opcodeRows, r.selects w = true)
    ∧ ∀ i r, decode w = .ok i → r ∈ opcodeRows → r.selects w = true → r.pattern = encode i &&& 0x000000FF#32

/-- R112 of 30: the worked encodings, read and written. -/
def Obligations.WorkedEncodingsDecode : Prop :=
  ∀ p ∈ ([(0x00000000, .nop), (0x00000001, .init), (0x00000003, .frame), (0x00004010, .widen 0x40 0x00),
    (0x00444012, .conj 0x40 0x44), (0x02404122, .bflyRow 0x41 0x40 2), (0x00004228, .fftFwd 0x42 0x00),
    (0x00440229, .fftInv 0x02 0x44), (0x43424430, .pamp 0x44 0x42 0x43), (0xA144441A, .add 0x44 0x44 0xA1),
    (0x2242621B, .mulM 0x62 0x42 0x22), (0x04002431, .genMask 0x24 4), (0x00004419, .zero 0x44)] :
      List (Word × Instr)), decode p.1 = .ok p.2 ∧ encode p.2 = p.1

/-- R108 (checks 1 and 2), R101, R105, R109 of 30, R290 of 60: an accepted word that selects no row, by a reserved opcode or
a non-zero unused field, is abandoned with E_ILLCMD; only `LASTERR`, `ERRLOG` and `BUSY` change (R250 of 44, R286 of 60). -/
def Obligations.WordWithoutRowIsIllegal : Prop :=
  ∀ s : State, s.busy = true → (∀ r ∈ opcodeRows, r.selects s.cur = false) →
    ∃ t, s.sequence binary32 = .next t ∧ AbandonedWith s t 3

/-! ## Steps and the life of a command (44_orchestrator, 20_memory) -/

/-- R250 of 44: in the sequencer's turn, a step of the busy block is `exec` of the command its word decodes to, on the
state whose agenda has moved past that turn. The word that `withFetchWord` places is run so by the very next step, and
the host's turn is the access at the head of the agenda (the agenda is the model's: log 12). -/
def Obligations.StepRunsDecodedCommand : Prop :=
  (∀ (s : State) (i : Instr), s.busy = true → decode s.cur = .ok i →
    (s.agenda = [] → step s = exec i s)
    ∧ ∀ rest, s.agenda = .seq :: rest → step s = exec i { s with agenda := rest })
  ∧ (∀ (s : State) (i : Instr) (w : Nat), decodeTableWord 32 w = some i →
    step (s.withFetchWord 32 w) = exec i (s.accept binary32 (BitVec.ofNat 32 w)))
  ∧ ∀ (s : State) (x : HostAccess) (rest : List Turn), s.agenda = .host x :: rest →
    step s = State.hostAccess binary32 x { s with agenda := rest }

/-- R33, R38 of 10: a write of `CMD` while idle accepts the word and samples the effective parameters, field by field; while
busy it is dropped and sets `ERRLOG[6]`; a read returns 0. The draw of `res_ok` at acceptance is the model's choice
(log 7), and so is the arithmetic of the clamps on stored numbers (log 2); the rule's own formulas over the reals are
those of `EffectiveParametersInRange`. -/
def Obligations.CmdWriteAcceptsOrOverruns : Prop :=
  ∀ (s : State) (w : Word),
    (s.busy = false → ∃ t, s.hostAccess binary32 (.write 0x00 w) = .next t
      ∧ t.cur = w ∧ t.busy = true ∧ t.lastErr = 0 ∧ t.ustep = 0 ∧ t.resDraw = s.resOk
      ∧ t.snap.canvasW = s.regs.canvasW ∧ t.snap.canvasH = s.regs.canvasH
      ∧ t.snap.levels = min (max s.regs.pyrLevels.toNat 1) Config.pyrMax
      ∧ (∀ v, Number.dec? s.regs.maxFreq = some v →
        t.snap.fmax = numerics.min (numerics.max v (numerics.mul (numerics.ofNat 2) cfgEps))
          (numerics.div (numerics.ofNat 1) (numerics.ofNat 2)))
      ∧ (∀ v, Number.dec? s.regs.minFreq = some v →
        t.snap.fmin = numerics.min (numerics.max v cfgEps) (numerics.sub t.snap.fmax cfgEps))
      ∧ (∀ v, Number.dec? s.regs.highCut = some v →
        t.snap.hi = numerics.min (numerics.max v cfgEps) (numerics.ofNat 1))
      ∧ (∀ v, Number.dec? s.regs.lowCut = some v →
        t.snap.lo = numerics.min (numerics.max v (numerics.ofNat 0)) (numerics.sub t.snap.hi cfgEps))
      ∧ (∀ v, Number.dec? s.regs.steepness = some v → t.snap.steep = numerics.max v cfgEps)
      ∧ (∀ v, Number.dec? s.regs.motionSens = some v → t.snap.sens = numerics.max v cfgEps)
      ∧ (∀ v, Number.dec? s.regs.phaseScale = some v → t.snap.pscale = v)
      ∧ (∀ v, Number.dec? s.regs.magThresh = some v → t.snap.mthr = v)
      ∧ (∀ v, Number.dec? s.regs.magScale = some v → t.snap.mscale = v)
      ∧ (∀ v, Number.dec? s.regs.edgeEnh = some v → t.snap.eenh = v)
      ∧ t.snap.pyr = s.regs.ctrl.getLsbD 0 ∧ t.snap.bpen = s.regs.ctrl.getLsbD 1
      ∧ t.snap.edges = s.regs.ctrl.getLsbD 2 ∧ t.snap.showmag = s.regs.ctrl.getLsbD 3
      ∧ t.snap.showph = s.regs.ctrl.getLsbD 4
      ∧ { t with cur := s.cur, busy := s.busy, lastErr := s.lastErr, ustep := s.ustep, snap := s.snap,
                 resDraw := s.resDraw } = s)
    ∧ (s.busy = true → ∃ t, s.hostAccess binary32 (.write 0x00 w) = .next t
      ∧ (∀ k, k < 32 → t.errLog.getLsbD k = (s.errLog.getLsbD k || decide (k = 6)))
      ∧ { t with errLog := s.errLog } = s)
    ∧ s.hostAccess binary32 (.read 0x00) = .next { s with rdata := 0 }

/-- R250 of 44: "every accepted command completes or is abandoned" (R320 of 70): whatever the word and the state, the
sequencer's turn ends with `BUSY = 0` and an error code of R280 of 60 that a command can have, or with `LASTERR` as
acceptance left it. -/
def Obligations.AcceptedCommandEnds : Prop :=
  ∀ s : State, s.busy = true →
    ∃ t, s.sequence binary32 = .next t ∧ t.busy = false
      ∧ (t.lastErr = s.lastErr ∨ 1 ≤ t.lastErr.toNat ∧ t.lastErr.toNat ≤ 5)

/-- R84 of 20: while a command runs the host cannot change any buffer, table, the snapshot, the command, the session or
its outcome. -/
def Obligations.HostCannotDisturbRunningCommand : Prop :=
  ∀ (s t : State) (x : HostAccess), s.busy = true → s.hostAccess binary32 x = .next t →
    { t with regs := s.regs, errLog := s.errLog, rdata := s.rdata, draws := s.draws } = s

/-- R287 of 60: a bit of `ERRLOG` once set stays set, whatever a step does, unless the step is a reset. -/
def Obligations.ErrorLogIsSticky : Prop :=
  ∀ s t : State, step s = .next t → s.agenda.head? ≠ some .reset →
    ∀ k, s.errLog.getLsbD k = true → t.errLog.getLsbD k = true

/-- R254 of 44: the session state changes only by reset and, in the sequencer's turn, by a running INIT, SHUTDOWN or FRAME,
and as the table lists; no turn of the host's or of the input `res_ok` changes it. -/
def Obligations.SessionChangesAsListed : Prop :=
  ∀ s t : State, step s = .next t →
    t.session = s.session
    ∨ (s.agenda.head? = some .reset ∧ t.session = .uninitialized)
    ∨ (SequencerTurn s ∧ s.busy = true
      ∧ ((decode s.cur = .ok .init ∧ (t.session = .ready ∧ t.lastErr = s.lastErr ∨ t.session = .uninitialized))
        ∨ (decode s.cur = .ok .shutdown ∧ t.session = .uninitialized)
        ∨ (decode s.cur = .ok .frame ∧ s.session = .ready ∧ t.session = .steadyState)))

/-- R310, R311 of 70 and R41 of 10: what the reset event leaves, also while a command runs. That the numeric registers hold
the binary32 patterns of V53 for the values of R37 is DEDUCED (log 19), and empty memories are the model's form of
"unspecified" (log 8). -/
def Obligations.ResetEventRestoresResetValues : Prop :=
  ∀ (s : State) (rest : List Turn), s.agenda = .reset :: rest →
    ∃ t, step s = .next t ∧ t.session = .uninitialized ∧ t.busy = false ∧ t.lastErr = 0 ∧ t.errLog = 0
      ∧ t.pp = false ∧ t.fbValid = false
      ∧ t.regs.ctrl = 0 ∧ t.regs.canvasW = 0 ∧ t.regs.canvasH = 0 ∧ t.regs.pyrLevels = 5
      ∧ t.regs.minFreq = 0x3D4CCCCD ∧ t.regs.maxFreq = 0x3EE66666 ∧ t.regs.phaseScale = 0x3F800000
      ∧ t.regs.magThresh = 0 ∧ t.regs.magScale = 0x3F800000 ∧ t.regs.lowCut = 0x3D4CCCCD
      ∧ t.regs.highCut = 0x3ECCCCCD ∧ t.regs.steepness = 0x40400000 ∧ t.regs.motionSens = 0x3F800000
      ∧ t.regs.edgeEnh = 0 ∧ t.regs.hbSel = 0 ∧ t.regs.hbIdx = 0
      ∧ t.planes = [] ∧ t.spectra = [] ∧ t.brt = [] ∧ t.twt = []

/-! ## Host registers and window (10_state, 20_memory) -/

/-- R32, R37 of 10: a write of a configuration or window-selection register is accepted whatever `BUSY` is, changes that
register at once and nothing else, and the register reads what was written. In every reference instance a numeric register
takes every real number (R5 of 00, R75 of 20); that the other registers take the words among the reals is the model's choice
(log 28). -/
def Obligations.RegisterReadsWhatWasWritten : Prop :=
  (∀ (s : State) (off : Nat) (num : Bool) (w : Word), (off, num) ∈ rwRegisters →
    (num = true → isFinitePattern w = true) →
    ∃ t, s.hostAccess binary32 (.write off w) = .next t ∧ { t with regs := s.regs } = s ∧ ReadsAs binary32 t off w
      ∧ ∀ off' num', (off', num') ∈ rwRegisters → off' ≠ off → ∀ w', ReadsAs binary32 s off' w' ↔ ReadsAs binary32 t off' w')
  ∧ ∀ (M : NumSystem ℝ ℝ) (s : State ℝ ℝ) (off : Nat) (num : Bool) (v : ℝ), IsReference M → (off, num) ∈ rwRegisters →
    (num = false → ∃ w : Word, v = w.toNat) →
    ∃ t, s.hostAccess M (.write off v) = .next t ∧ { t with regs := s.regs } = s ∧ ReadsAs M t off v
      ∧ ∀ off' num', (off', num') ∈ rwRegisters → off' ≠ off → ∀ x, ReadsAs M s off' x ↔ ReadsAs M t off' x

/-- R32 of 10: an offset not in the table reads 0 and ignores writes; writes of `STATUS` and `ERRLOG` are ignored;
`ERRLOG` reads the log. -/
def Obligations.ReservedAndReadOnlyOffsets : Prop :=
  ∀ (s : State) (w : Word),
    (∀ off, off < 256 → off % 4 = 0 → off ∉ [0x00, 0x04, 0x08, 0x68, 0x6C] → (∀ n, (off, n) ∉ rwRegisters) →
      ReadsAs binary32 s off 0 ∧ s.hostAccess binary32 (.write off w) = .next s)
    ∧ s.hostAccess binary32 (.write 0x04 w) = .next s
    ∧ s.hostAccess binary32 (.write 0x08 w) = .next s
    ∧ ReadsAs binary32 s 0x08 s.errLog

/-- R73 of 20, U6 of 93: an access that is not aligned to 4 bytes or not 32 bits wide is refused. Offsets at and
above 256 name no register and fault (the model's choice, log 17). U7 of 93: a write that would store a pattern that is no
finite number, in a numeric register or in an element of a buffer, is refused (log 16). -/
def Obligations.OddAccessesAreRefused : Prop :=
  ∀ (s : State) (off bits : Nat) (w : Word),
    (off < 256 → off % 4 ≠ 0 →
      s.hostAccess binary32 (.read off) = .refused .misalignedAccess ∧ s.hostAccess binary32 (.write off w) = .refused .misalignedAccess)
    ∧ (off < 256 → off % 4 = 0 → s.hostAccess binary32 (.otherWidth off bits) = .refused .accessWidth)
    ∧ (256 ≤ off → s.hostAccess binary32 (.read off) = .fault .noSuchOffset ∧ s.hostAccess binary32 (.write off w) = .fault .noSuchOffset)
    ∧ (isFinitePattern w = false →
      (∀ o, (o, true) ∈ rwRegisters → s.hostAccess binary32 (.write o w) = .refused .notFinite)
      ∧ (∀ p, planeOf (selectedId s) = some p → Admits s (s.n * s.n) →
        s.hostAccess binary32 (.write 0x68 w) = .refused .notFinite)
      ∧ ∀ q, spectrumOf (selectedId s) = some q → Admits s (s.n * s.n) →
        s.hostAccess binary32 (.write 0x68 w) = .refused .notFinite
        ∧ s.hostAccess binary32 (.write 0x6C w) = .refused .notFinite)

/-- R34 of 10: the fields of `STATUS` while no command runs. -/
def Obligations.StatusFields : Prop :=
  ∀ s : State, s.busy = false →
    ∃ w, ReadsAs binary32 s 0x04 w
      ∧ w.getLsbD 0 = false ∧ (w.extractLsb' 1 2).toNat = s.session.code ∧ w.getLsbD 3 = s.pp
      ∧ w.getLsbD 4 = s.fbValid ∧ w.extractLsb' 5 3 = 0#3 ∧ w.extractLsb' 8 4 = s.lastErr
      ∧ w.extractLsb' 12 4 = 0#4
      ∧ (w.extractLsb' 16 5).toNat = (if s.session = .uninitialized then 0 else s.logn.val)
      ∧ w.extractLsb' 21 11 = 0#11

/-- U13 of 93 (R84 of 20): while a command runs, `BUSY` reads 1, `LASTERR` reads 0, `STATE` never reads 3 (R34 of 10), and
`STATE`, `FBVALID` and `LOGN` read values between those before the command and those after it; so does `PP`, unless the
command is a transform macro that is not abandoned or a FRAME in `SteadyState`, in which it changes (R84). The read
changes no state of the spec's. The bounds are those of log 11. -/
def Obligations.StatusWhileBusy : Prop :=
  ∀ s : State, s.busy = true →
    ∃ t u, s.hostAccess binary32 (.read 0x04) = .next t ∧ s.sequence binary32 = .next u
      ∧ t.rdata.getLsbD 0 = true ∧ (t.rdata.extractLsb' 1 2).toNat ≠ 3 ∧ t.rdata.extractLsb' 8 4 = 0#4
      ∧ t.rdata.extractLsb' 5 3 = 0#3 ∧ t.rdata.extractLsb' 12 4 = 0#4 ∧ t.rdata.extractLsb' 21 11 = 0#11
      ∧ min s.session.code u.session.code ≤ (t.rdata.extractLsb' 1 2).toNat
      ∧ (t.rdata.extractLsb' 1 2).toNat ≤ max s.session.code u.session.code
      ∧ (s.fbValid = u.fbValid → t.rdata.getLsbD 4 = s.fbValid)
      ∧ min s.lognField u.lognField ≤ (t.rdata.extractLsb' 16 5).toNat
      ∧ (t.rdata.extractLsb' 16 5).toNat ≤ max s.lognField u.lognField
      ∧ ((∀ i, decode s.cur = .ok i → i.kindsOk = true → s.session ≠ .uninitialized →
          (∀ d a, i ≠ .fftFwd d a) ∧ (∀ d a, i ≠ .fftInv d a) ∧ (i = .frame → s.session ≠ .steadyState)) →
        s.pp = u.pp → t.rdata.getLsbD 3 = s.pp)
      ∧ { t with rdata := s.rdata, draws := s.draws } = s

/-- R76, R75 of 20: what an admitted window read returns; it changes no state. In every reference instance the window carries
the real number itself. That a word, a `BRT` entry or the 0 of `HB_IM`, is among the reals the number it stands for is the
model's choice (log 28). -/
def Obligations.WindowReadReturnsElement : Prop :=
  (∀ s : State,
    (∀ p, planeOf (selectedId s) = some p → Admits s (s.n * s.n) →
      ReadsAs binary32 s 0x68 (s.planeElem binary32 p s.regs.hbIdx.toNat).enc ∧ ReadsAs binary32 s 0x6C 0)
    ∧ (∀ q, spectrumOf (selectedId s) = some q → Admits s (s.n * s.n) →
      ReadsAs binary32 s 0x68 (s.specElem binary32 q s.regs.hbIdx.toNat).re.enc ∧ ReadsAs binary32 s 0x6C (s.specElem binary32 q s.regs.hbIdx.toNat).im.enc)
    ∧ (selectedId s = 0xF0 → Admits s s.n →
      ReadsAs binary32 s 0x68 (BitVec.ofNat 32 (s.brtEntry s.regs.hbIdx.toNat)) ∧ ReadsAs binary32 s 0x6C 0)
    ∧ (selectedId s = 0xF1 → Admits s (s.n / 2) →
      ReadsAs binary32 s 0x68 (s.twtEntry binary32 s.regs.hbIdx.toNat).re.enc ∧ ReadsAs binary32 s 0x6C (s.twtEntry binary32 s.regs.hbIdx.toNat).im.enc))
  ∧ ∀ (M : NumSystem ℝ ℝ) (s : State ℝ ℝ), IsReference M →
    (∀ p, planeOf (selectedId s) = some p → Admits s (s.n * s.n) →
      ReadsAs M s 0x68 (s.planeElem M p s.regs.hbIdx.toNat) ∧ ReadsAs M s 0x6C 0)
    ∧ (∀ q, spectrumOf (selectedId s) = some q → Admits s (s.n * s.n) →
      ReadsAs M s 0x68 (s.specElem M q s.regs.hbIdx.toNat).re ∧ ReadsAs M s 0x6C (s.specElem M q s.regs.hbIdx.toNat).im)
    ∧ (selectedId s = 0xF0 → Admits s s.n → s.brtEntry s.regs.hbIdx.toNat < 2 ^ 32 →
      ReadsAs M s 0x68 (s.brtEntry s.regs.hbIdx.toNat : ℝ) ∧ ReadsAs M s 0x6C 0)
    ∧ (selectedId s = 0xF1 → Admits s (s.n / 2) →
      ReadsAs M s 0x68 (s.twtEntry M s.regs.hbIdx.toNat).re ∧ ReadsAs M s 0x6C (s.twtEntry M s.regs.hbIdx.toNat).im)

/-- R77 of 20: an admitted write to `HB_RE` replaces the sample or the real part with the number its word stands for, one to
`HB_IM` the imaginary part; on a plane a write to `HB_IM` is ignored, whatever its word. Every other element, and every
other field but `FBVALID` on a plane of the filter bank, is unchanged (that `FBKEY` is, which then has no meaning, is the
model's choice: log 27). In every reference
instance the word is the real number itself (R75). -/
def Obligations.WindowWriteReplacesOnePart : Prop :=
  (∀ (s : State) (w : Word), Admits s (s.n * s.n) →
    (∀ p, planeOf (selectedId s) = some p →
      (∀ v, Number.dec? w = some v → ∃ t, s.hostAccess binary32 (.write 0x68 w) = .next t
        ∧ t.planeElem binary32 p s.regs.hbIdx.toNat = v
        ∧ (∀ p' idx, validIndex idx → ¬ (p' = p ∧ idx = s.regs.hbIdx.toNat) →
          t.planeElem binary32 p' idx = s.planeElem binary32 p' idx)
        ∧ ((∃ i, p = .mask i) → t.fbValid = false) ∧ ((∀ i, p ≠ .mask i) → t.fbValid = s.fbValid)
        ∧ { t with planes := s.planes, fbValid := s.fbValid } = s)
      ∧ ∃ t, s.hostAccess binary32 (.write 0x6C w) = .next t
        ∧ ((∃ i, p = .mask i) → t.fbValid = false) ∧ ((∀ i, p ≠ .mask i) → t.fbValid = s.fbValid)
        ∧ { t with fbValid := s.fbValid } = s)
    ∧ (∀ q v, spectrumOf (selectedId s) = some q → Number.dec? w = some v →
      (∃ t, s.hostAccess binary32 (.write 0x68 w) = .next t
        ∧ t.specElem binary32 q s.regs.hbIdx.toNat = ⟨v, (s.specElem binary32 q s.regs.hbIdx.toNat).im⟩
        ∧ (∀ q' idx, validIndex idx → ¬ (q' = q ∧ idx = s.regs.hbIdx.toNat) →
          t.specElem binary32 q' idx = s.specElem binary32 q' idx)
        ∧ { t with spectra := s.spectra } = s)
      ∧ ∃ t, s.hostAccess binary32 (.write 0x6C w) = .next t
        ∧ t.specElem binary32 q s.regs.hbIdx.toNat = ⟨(s.specElem binary32 q s.regs.hbIdx.toNat).re, v⟩
        ∧ (∀ q' idx, validIndex idx → ¬ (q' = q ∧ idx = s.regs.hbIdx.toNat) →
          t.specElem binary32 q' idx = s.specElem binary32 q' idx)
        ∧ { t with spectra := s.spectra } = s))
  ∧ ∀ (M : NumSystem ℝ ℝ) (s : State ℝ ℝ) (v : ℝ), IsReference M → Admits s (s.n * s.n) →
    (∀ p, planeOf (selectedId s) = some p →
      (∃ t, s.hostAccess M (.write 0x68 v) = .next t ∧ t.planeElem M p s.regs.hbIdx.toNat = v
        ∧ (∀ p' idx, validIndex idx → ¬ (p' = p ∧ idx = s.regs.hbIdx.toNat) →
          t.planeElem M p' idx = s.planeElem M p' idx)
        ∧ ((∃ i, p = .mask i) → t.fbValid = false) ∧ ((∀ i, p ≠ .mask i) → t.fbValid = s.fbValid)
        ∧ { t with planes := s.planes, fbValid := s.fbValid } = s)
      ∧ ∃ t, s.hostAccess M (.write 0x6C v) = .next t
        ∧ ((∃ i, p = .mask i) → t.fbValid = false) ∧ ((∀ i, p ≠ .mask i) → t.fbValid = s.fbValid)
        ∧ { t with fbValid := s.fbValid } = s)
    ∧ ∀ q, spectrumOf (selectedId s) = some q →
      (∃ t, s.hostAccess M (.write 0x68 v) = .next t
        ∧ t.specElem M q s.regs.hbIdx.toNat = ⟨v, (s.specElem M q s.regs.hbIdx.toNat).im⟩
        ∧ (∀ q' idx, validIndex idx → ¬ (q' = q ∧ idx = s.regs.hbIdx.toNat) →
          t.specElem M q' idx = s.specElem M q' idx)
        ∧ { t with spectra := s.spectra } = s)
      ∧ ∃ t, s.hostAccess M (.write 0x6C v) = .next t
        ∧ t.specElem M q s.regs.hbIdx.toNat = ⟨(s.specElem M q s.regs.hbIdx.toNat).re, v⟩
        ∧ (∀ q' idx, validIndex idx → ¬ (q' = q ∧ idx = s.regs.hbIdx.toNat) →
          t.specElem M q' idx = s.specElem M q' idx)
        ∧ { t with spectra := s.spectra } = s

/-- R78 of 20, R285 of 60: a window access that is not admitted sets `ERRLOG[7]` and changes no buffer, no table and no
flag; a write to a table is never admitted. -/
def Obligations.RefusedWindowAccessIsLogged : Prop :=
  ∀ (s : State) (w : Word) (off : Nat), off = 0x68 ∨ off = 0x6C →
    ((∀ p, planeOf (selectedId s) = some p → ¬ Admits s (s.n * s.n)) →
      (∀ q, spectrumOf (selectedId s) = some q → ¬ Admits s (s.n * s.n)) →
      (∃ t, s.hostAccess binary32 (.write off w) = .next t
        ∧ (∀ k, k < 32 → t.errLog.getLsbD k = (s.errLog.getLsbD k || decide (k = 7)))
        ∧ { t with errLog := s.errLog } = s)
      ∧ ((selectedId s = 0xF0 → ¬ Admits s s.n) → (selectedId s = 0xF1 → ¬ Admits s (s.n / 2)) →
        ∃ t, s.hostAccess binary32 (.read off) = .next t
          ∧ (∀ k, k < 32 → t.errLog.getLsbD k = (s.errLog.getLsbD k || decide (k = 7)))
          ∧ { t with errLog := s.errLog, rdata := s.rdata, draws := s.draws } = s))

/-! ## Commands without operands -/

/-- R251 of 44: NOP completes in every `STATE` and changes nothing. -/
def Obligations.NopChangesNothing : Prop :=
  ∀ s : State, encode .nop = 0x00000000 ∧ ∃ t, exec .nop s = .next t ∧ t.busy = false ∧ { t with busy := s.busy } = s

/-- R252 of 44: INIT starts a session, or fails with E_PRECOND before E_UNAVAIL, ending any session. `res_ok` is the
draw made when the INIT was accepted (log 7).
That `FBKEY`, which has no meaning afterwards, keeps its value is the model's choice (log 27). -/
def Obligations.InitStartsOrEndsSession : Prop :=
  ∀ s : State,
    encode .init = 0x00000001
    ∧ (s.snap.canvasW ≠ s.snap.canvasH ∨ s.snap.canvasW.toNat < 2 ∨ (∀ k, s.snap.canvasW.toNat ≠ 2 ^ k) →
      ∃ t, exec .init s = .next t ∧ SessionEnded s t ∧ t.pp = s.pp ∧ t.lastErr = 2 ∧ t.busy = false
        ∧ ∀ j, j < 32 → t.errLog.getLsbD j = (s.errLog.getLsbD j || decide (j = 2)))
    ∧ ∀ k, 1 ≤ k → s.snap.canvasW.toNat = 2 ^ k → s.snap.canvasH.toNat = 2 ^ k →
      (Config.lognMax < k ∨ s.resDraw = false →
        ∃ t, exec .init s = .next t ∧ SessionEnded s t ∧ t.pp = s.pp ∧ t.lastErr = 1 ∧ t.busy = false
          ∧ ∀ j, j < 32 → t.errLog.getLsbD j = (s.errLog.getLsbD j || decide (j = 1)))
      ∧ (k ≤ Config.lognMax → s.resDraw = true → ∃ t, exec .init s = .next t ∧ SessionStarted binary32 s t k)

/-- R253 of 44: SHUTDOWN ends the session in every `STATE`; registers, `LASTERR` and `ERRLOG` are kept.
That `FBKEY`, which has no meaning afterwards, keeps its value is the model's choice (log 27). -/
def Obligations.ShutdownEndsSession : Prop :=
  ∀ s : State, encode .shutdown = 0x00000002
    ∧ ∃ t, exec .shutdown s = .next t ∧ SessionEnded s t ∧ t.pp = false ∧ t.busy = false
      ∧ t.lastErr = s.lastErr ∧ t.errLog = s.errLog

/-- R132, R133 of 40: TBL.BREV writes `BRT[i] <- reverseBits(i, LOGN)` for every `i < N`, TBL.TWID writes
`TWT[k] <- ( cos(-2*pi*k/N), sin(-2*pi*k/N) )` for every `k < N/2`, and nothing else; `TWT[0]` is `(1, 0)`. The grouping of the
angle's products is the model's choice (log 22), and so is, in the machine's arithmetic, that `TWT[0]` is exactly `(1, 0)`:
it rests on the exact `cos` and `sin` at 0 (log 3). -/
def Obligations.TableCommandsWriteTables : Prop :=
  (∀ s : State, encode .tblBrev = 0x00000008
    ∧ (s.session ≠ .uninitialized → ∃ t, exec .tblBrev s = .next t
      ∧ (∀ i, i < s.n → t.brtEntry i = reverseBits i s.logn.val)
      ∧ t.busy = false ∧ t.ustep = s.ustep + 1
      ∧ { t with brt := s.brt, busy := s.busy, ustep := s.ustep } = s)
    ∧ DecodeOnlyErrors .tblBrev s)
  ∧ ∀ s : State, encode .tblTwid = 0x00000009
    ∧ (s.session ≠ .uninitialized → ∃ t, exec .tblTwid s = .next t
      ∧ (∀ k, k < s.n / 2 → t.twtEntry binary32 k =
          (let angle := numerics.div (numerics.mul (numerics.mul (numerics.neg (numerics.ofNat 2)) numerics.pi)
            (numerics.ofNat k)) (numerics.ofNat s.n)
          ⟨numerics.cos angle, numerics.sin angle⟩))
      ∧ (1 ≤ s.logn.val → (t.twtEntry binary32 0).re.val = 1 ∧ (t.twtEntry binary32 0).im.val = 0)
      ∧ t.busy = false ∧ t.ustep = s.ustep + 1
      ∧ { t with twt := s.twt, busy := s.busy, ustep := s.ustep } = s)
    ∧ DecodeOnlyErrors .tblTwid s

/-! ## Element-wise commands (40_spectral_primitives, 41, 43) -/

/-- R134 of 40: WIDEN. -/
def Obligations.WidenSetsImaginaryZero : Prop :=
  ∀ (d a : Byte) (s : State), encode (.widen d a) = packWord 0 a d 0x10
    ∧ (∀ dq ap, spectrumOf d = some dq → planeOf a = some ap → s.session ≠ .uninitialized →
      ∃ t, exec (.widen d a) s = .next t ∧ WritesSpectrum binary32 s t dq fun x y => ⟨s.planeAt binary32 ap x y, Number.zero⟩)
    ∧ DecodeOnlyErrors (.widen d a) s

/-- R135, R136 of 40: CENTER and CONJ, also in place. -/
def Obligations.CenterAndConjNegate : Prop :=
  (∀ (d a : Byte) (s : State), encode (.center d a) = packWord 0 a d 0x11
    ∧ (∀ dq aq, spectrumOf d = some dq → spectrumOf a = some aq → s.session ≠ .uninitialized →
      ∃ t, exec (.center d a) s = .next t ∧ WritesSpectrum binary32 s t dq fun x y =>
        if (x + y) % 2 = 0 then s.specAt binary32 aq x y
        else ⟨numerics.neg (s.specAt binary32 aq x y).re, numerics.neg (s.specAt binary32 aq x y).im⟩)
    ∧ DecodeOnlyErrors (.center d a) s)
  ∧ ∀ (d a : Byte) (s : State), encode (.conj d a) = packWord 0 a d 0x12
    ∧ (∀ dq aq, spectrumOf d = some dq → spectrumOf a = some aq → s.session ≠ .uninitialized →
      ∃ t, exec (.conj d a) s = .next t ∧ WritesSpectrum binary32 s t dq fun x y =>
        ⟨(s.specAt binary32 aq x y).re, numerics.neg (s.specAt binary32 aq x y).im⟩)
    ∧ DecodeOnlyErrors (.conj d a) s

/-- R137 of 40: SCALE; the divisor `N*N` is converted exactly (R131). -/
def Obligations.ScaleDividesByElementCount : Prop :=
  ∀ (d a : Byte) (s : State), encode (.scale d a) = packWord 0 a d 0x13
    ∧ (∀ dq aq, spectrumOf d = some dq → spectrumOf a = some aq → s.session ≠ .uninitialized →
      ∃ (t : State) (nn : Number), exec (.scale d a) s = .next t ∧ nn.val = (s.n * s.n : ℕ)
        ∧ WritesSpectrum binary32 s t dq fun x y =>
          ⟨numerics.div (s.specAt binary32 aq x y).re nn, numerics.div (s.specAt binary32 aq x y).im nn⟩)
    ∧ DecodeOnlyErrors (.scale d a) s

/-- R138 of 40: TOMAG; "the result is never negative". That a square is evaluated as a product is the model's choice (log 22).
That `FBKEY` is unchanged when `FBVALID` is cleared is the model's choice (log 27). -/
def Obligations.ToMagWritesMagnitude : Prop :=
  ∀ (d a : Byte) (s : State), encode (.toMag d a) = packWord 0 a d 0x14
    ∧ (∀ dp aq, planeOf d = some dp → spectrumOf a = some aq → s.session ≠ .uninitialized →
      ∃ t, exec (.toMag d a) s = .next t
        ∧ (WritesPlane binary32 s t dp fun x y => numerics.sqrt (numerics.add
          (numerics.mul (s.specAt binary32 aq x y).re (s.specAt binary32 aq x y).re) (numerics.mul (s.specAt binary32 aq x y).im (s.specAt binary32 aq x y).im)))
        ∧ ∀ x y, x < s.n → y < s.n → 0 ≤ (t.planeAt binary32 dp x y).val)
    ∧ DecodeOnlyErrors (.toMag d a) s

/-- R139 of 40: TOPHASE; "the result lies in `(-pi, pi]`", and a bin `(r, 0)` has phase `pi` for `r < 0` and 0 at the origin
(R14 of 00). That in the machine's arithmetic a bin `(r, 0)` with `r > 0` has phase exactly 0, and that every phase lies in
that range for the stored `pi`, is the model's choice (log 3). That `FBKEY` is unchanged when `FBVALID` is cleared is the
model's choice (log 27). -/
def Obligations.ToPhaseWritesPhase : Prop :=
  ∀ (d a : Byte) (s : State), encode (.toPhase d a) = packWord 0 a d 0x15
    ∧ (∀ dp aq, planeOf d = some dp → spectrumOf a = some aq → s.session ≠ .uninitialized →
      ∃ t, exec (.toPhase d a) s = .next t
        ∧ (WritesPlane binary32 s t dp fun x y => numerics.atan2 (s.specAt binary32 aq x y).im (s.specAt binary32 aq x y).re)
        ∧ ∀ x y, x < s.n → y < s.n →
          -Number.pi.val < (t.planeAt binary32 dp x y).val ∧ (t.planeAt binary32 dp x y).val ≤ Number.pi.val
          ∧ ((s.specAt binary32 aq x y).im.val = 0 →
            t.planeAt binary32 dp x y = if (s.specAt binary32 aq x y).re.val < 0 then Number.pi else Number.zero))
    ∧ DecodeOnlyErrors (.toPhase d a) s

/-- R140, R141 of 40: COPYP and COPYS; R164 of 41: TOREAL, which copies the real component.
That `FBKEY` is unchanged when `FBVALID` is cleared is the model's choice (log 27). -/
def Obligations.CopiesAreElementwise : Prop :=
  (∀ (d a : Byte) (s : State), encode (.copyP d a) = packWord 0 a d 0x17
    ∧ (∀ dp ap, planeOf d = some dp → planeOf a = some ap → s.session ≠ .uninitialized →
      ∃ t, exec (.copyP d a) s = .next t ∧ WritesPlane binary32 s t dp fun x y => s.planeAt binary32 ap x y)
    ∧ DecodeOnlyErrors (.copyP d a) s)
  ∧ (∀ (d a : Byte) (s : State), encode (.copyS d a) = packWord 0 a d 0x18
    ∧ (∀ dq aq, spectrumOf d = some dq → spectrumOf a = some aq → s.session ≠ .uninitialized →
      ∃ t, exec (.copyS d a) s = .next t ∧ WritesSpectrum binary32 s t dq fun x y => s.specAt binary32 aq x y)
    ∧ DecodeOnlyErrors (.copyS d a) s)
  ∧ ∀ (d a : Byte) (s : State), encode (.toReal d a) = packWord 0 a d 0x16
    ∧ (∀ dp aq, planeOf d = some dp → spectrumOf a = some aq → s.session ≠ .uninitialized →
      ∃ t, exec (.toReal d a) s = .next t ∧ WritesPlane binary32 s t dp fun x y => (s.specAt binary32 aq x y).re)
    ∧ DecodeOnlyErrors (.toReal d a) s

/-- R224, R225 of 43, the accumulation commands: ZERO, and ADD, also when the destination is a source. -/
def Obligations.ZeroClearsAndAddSums : Prop :=
  (∀ (d : Byte) (s : State), encode (.zero d) = packWord 0 0 d 0x19
    ∧ (∀ dq, spectrumOf d = some dq → s.session ≠ .uninitialized →
      ∃ t, exec (.zero d) s = .next t ∧ WritesSpectrum binary32 s t dq fun _ _ => ⟨Number.zero, Number.zero⟩)
    ∧ DecodeOnlyErrors (.zero d) s)
  ∧ ∀ (d a b : Byte) (s : State), encode (.add d a b) = packWord b a d 0x1A
    ∧ (∀ dq aq bq, spectrumOf d = some dq → spectrumOf a = some aq → spectrumOf b = some bq →
      s.session ≠ .uninitialized →
      ∃ t, exec (.add d a b) s = .next t ∧ WritesSpectrum binary32 s t dq fun u v =>
        ⟨numerics.add (s.specAt binary32 aq u v).re (s.specAt binary32 bq u v).re, numerics.add (s.specAt binary32 aq u v).im (s.specAt binary32 bq u v).im⟩)
    ∧ DecodeOnlyErrors (.add d a b) s

/-- R223 of 43: MULM. -/
def Obligations.MulMScalesByMask : Prop :=
  ∀ (d a b : Byte) (s : State), encode (.mulM d a b) = packWord b a d 0x1B
    ∧ (∀ dq aq bp, spectrumOf d = some dq → spectrumOf a = some aq → planeOf b = some bp →
      s.session ≠ .uninitialized →
      ∃ t, exec (.mulM d a b) s = .next t ∧ WritesSpectrum binary32 s t dq fun u v =>
        ⟨numerics.mul (s.planeAt binary32 bp u v) (s.specAt binary32 aq u v).re, numerics.mul (s.planeAt binary32 bp u v) (s.specAt binary32 aq u v).im⟩)
    ∧ DecodeOnlyErrors (.mulM d a b) s

/-! ## Transform (41_fft_engine) -/

/-- R160, R161 of 41: BREV.ROW and BREV.COL, with E_ALIAS when `d = a` (R283 of 60). -/
def Obligations.BitReversalPermutes : Prop :=
  (∀ (d a : Byte) (s : State), encode (.brevRow d a) = packWord 0 a d 0x20
    ∧ (∀ dq aq, spectrumOf d = some dq → spectrumOf a = some aq → s.session ≠ .uninitialized →
      (d ≠ a → ∃ t, exec (.brevRow d a) s = .next t
        ∧ WritesSpectrum binary32 s t dq fun x y => s.specAt binary32 aq (s.brtEntry x) y)
      ∧ (d = a → ∃ t, exec (.brevRow d a) s = .next t ∧ AbandonedWith s t 5))
    ∧ DecodeOnlyErrors (.brevRow d a) s)
  ∧ ∀ (d a : Byte) (s : State), encode (.brevCol d a) = packWord 0 a d 0x21
    ∧ (∀ dq aq, spectrumOf d = some dq → spectrumOf a = some aq → s.session ≠ .uninitialized →
      (d ≠ a → ∃ t, exec (.brevCol d a) s = .next t
        ∧ WritesSpectrum binary32 s t dq fun x y => s.specAt binary32 aq x (s.brtEntry y))
      ∧ (d = a → ∃ t, exec (.brevCol d a) s = .next t ∧ AbandonedWith s t 5))
    ∧ DecodeOnlyErrors (.brevCol d a) s

/-- R162, R163 of 41: BFLY.ROW and BFLY.COL; the stage is checked before the aliasing (R108 of 30). -/
def Obligations.ButterflyPasses : Prop :=
  (∀ (d a st : Byte) (s : State), encode (.bflyRow d a st) = packWord st a d 0x22
    ∧ (∀ dq aq, spectrumOf d = some dq → spectrumOf a = some aq → s.session ≠ .uninitialized →
      (1 ≤ st.toNat → st.toNat ≤ s.logn.val → d ≠ a → ∃ t, exec (.bflyRow d a st) s = .next t
        ∧ WritesSpectrum binary32 s t dq fun x y =>
          let m := 2 ^ st.toNat
          let h := m / 2
          let p := x % m
          if p < h then
            numerics.cadd (s.specAt binary32 aq x y) (numerics.cmul (s.twtEntry binary32 (p * (s.n / m))) (s.specAt binary32 aq (x + h) y))
          else
            numerics.csub (s.specAt binary32 aq (x - h) y) (numerics.cmul (s.twtEntry binary32 ((p - h) * (s.n / m))) (s.specAt binary32 aq x y)))
      ∧ (st.toNat = 0 ∨ s.logn.val < st.toNat → ∃ t, exec (.bflyRow d a st) s = .next t ∧ AbandonedWith s t 3)
      ∧ (1 ≤ st.toNat → st.toNat ≤ s.logn.val → d = a →
        ∃ t, exec (.bflyRow d a st) s = .next t ∧ AbandonedWith s t 5))
    ∧ DecodeOnlyErrors (.bflyRow d a st) s)
  ∧ ∀ (d a st : Byte) (s : State), encode (.bflyCol d a st) = packWord st a d 0x23
    ∧ (∀ dq aq, spectrumOf d = some dq → spectrumOf a = some aq → s.session ≠ .uninitialized →
      (1 ≤ st.toNat → st.toNat ≤ s.logn.val → d ≠ a → ∃ t, exec (.bflyCol d a st) s = .next t
        ∧ WritesSpectrum binary32 s t dq fun x y =>
          let m := 2 ^ st.toNat
          let h := m / 2
          let p := y % m
          if p < h then
            numerics.cadd (s.specAt binary32 aq x y) (numerics.cmul (s.twtEntry binary32 (p * (s.n / m))) (s.specAt binary32 aq x (y + h)))
          else
            numerics.csub (s.specAt binary32 aq x (y - h)) (numerics.cmul (s.twtEntry binary32 ((p - h) * (s.n / m))) (s.specAt binary32 aq x y)))
      ∧ (st.toNat = 0 ∨ s.logn.val < st.toNat → ∃ t, exec (.bflyCol d a st) s = .next t ∧ AbandonedWith s t 3)
      ∧ (1 ≤ st.toNat → st.toNat ≤ s.logn.val → d = a →
        ∃ t, exec (.bflyCol d a st) s = .next t ∧ AbandonedWith s t 5))
    ∧ DecodeOnlyErrors (.bflyCol d a st) s

/-- R170 of 41, R111 of 30: FFT.FWD completes and leaves what its expansion, issued command by command, leaves, with
`PP = 0`; it counts `5 + 2n` dispatches; the source plane is unchanged. -/
def Obligations.FftFwdIsItsExpansion : Prop :=
  ∀ (d a : Byte) (s : State), encode (.fftFwd d a) = packWord 0 a d 0x28
    ∧ (∀ dq ap, spectrumOf d = some dq → planeOf a = some ap → s.session ≠ .uninitialized →
      ∃ u, runCommands (forwardCommands s.logn.val d a) s = .next u
        ∧ exec (.fftFwd d a) s = .next { u with pp := false }
        ∧ u.ustep = s.ustep + (5 + 2 * s.logn.val) ∧ u.planes = s.planes)
    ∧ DecodeOnlyErrors (.fftFwd d a) s

/-- R172 of 41, R111 of 30: FFT.INV completes and leaves what its expansion leaves, with `PP = 0`; it counts `7 + 2n`
dispatches. -/
def Obligations.FftInvIsItsExpansion : Prop :=
  ∀ (d a : Byte) (s : State), encode (.fftInv d a) = packWord 0 a d 0x29
    ∧ (∀ dp aq, planeOf d = some dp → spectrumOf a = some aq → s.session ≠ .uninitialized →
      ∃ u, runCommands (inverseCommands s.logn.val d a) s = .next u
        ∧ exec (.fftInv d a) s = .next { u with pp := false }
        ∧ u.ustep = s.ustep + (7 + 2 * s.logn.val))
    ∧ DecodeOnlyErrors (.fftInv d a) s

/-! ## Amplifier and pyramid (42, 43) -/

/-- R200 of 42: PAMP, step by step, with E_ALIAS when the destination is a source; `a = b` is allowed. R200 writes the product
`dphi * pscale * gt * sens` without grouping: that the machine's arithmetic takes it as `((dphi * pscale) * gt) * sens`, and
each square as a product, is the model's choice (log 22). -/
def Obligations.PampRotatesBins : Prop :=
  ∀ (d a b : Byte) (s : State), encode (.pamp d a b) = packWord b a d 0x30
    ∧ (∀ dq aq bq, spectrumOf d = some dq → spectrumOf a = some aq → spectrumOf b = some bq →
      s.session ≠ .uninitialized →
      (d ≠ a → d ≠ b → ∃ t, exec (.pamp d a b) s = .next t ∧ WritesSpectrum binary32 s t dq fun u v =>
        let K := numerics
        let c := s.specAt binary32 aq u v
        let p := s.specAt binary32 bq u v
        let mc := K.sqrt (K.add (K.mul c.re c.re) (K.mul c.im c.im))
        let phc := K.atan2 c.im c.re
        let php := K.atan2 p.im p.re
        let dphi := wrapPhase K (K.sub phc php)
        let gt := if s.snap.bpen then gate K s.snap.lo s.snap.hi s.snap.steep (radialFrequency K s.n u v) else K.ofNat 1
        let amp := K.add (K.mul (K.mul (K.mul dphi s.snap.pscale) gt) s.snap.sens)
          (if s.snap.edges then K.mul s.snap.eenh (s.gradMag binary32 aq u v) else K.ofNat 0)
        let amp := if K.lt mc s.snap.mthr then K.ofNat 0 else amp
        let theta := K.add phc amp
        let m := K.mul mc s.snap.mscale
        ⟨K.mul m (K.cos theta), K.mul m (K.sin theta)⟩)
      ∧ (d = a ∨ d = b → ∃ t, exec (.pamp d a b) s = .next t ∧ AbandonedWith s t 5))
    ∧ DecodeOnlyErrors (.pamp d a b) s

/-- R222 of 43: GENMASK writes `mask_i(f(u, v))` with `L`, `fmin`, `fmax` from `SNAP`. The grouping of the formulas of `bandEdge`
and `radialFrequency` in the machine's arithmetic is the model's choice (log 22).
That `FBKEY` is unchanged when `FBVALID` is cleared is the model's choice (log 27). -/
def Obligations.GenMaskWritesBandMask : Prop :=
  ∀ (d level : Byte) (s : State), encode (.genMask d level) = packWord level 0 d 0x31
    ∧ (∀ dp, planeOf d = some dp → s.session ≠ .uninitialized →
      (level.toNat < s.snap.levels → ∃ t, exec (.genMask d level) s = .next t
        ∧ WritesPlane binary32 s t dp fun u v =>
          let edge := fun j => bandEdge numerics s.snap.levels s.snap.fmin s.snap.fmax j (radialFrequency numerics s.n u v)
          numerics.sub (edge level.toNat) (edge (level.toNat + 1)))
      ∧ (s.snap.levels ≤ level.toNat → ∃ t, exec (.genMask d level) s = .next t ∧ AbandonedWith s t 3))
    ∧ DecodeOnlyErrors (.genMask d level) s

/-- R228 of 43: GENFILT completes and leaves what its expansion leaves, then `FBVALID <- 1` and
`FBKEY <- (L, fmin, fmax)`; it counts `L` dispatches. -/
def Obligations.GenFiltIsItsExpansion : Prop :=
  ∀ s : State, encode .genFilt = 0x00000032
    ∧ (s.session ≠ .uninitialized → 1 ≤ s.snap.levels → s.snap.levels ≤ Config.pyrMax →
      ∃ u, runCommands (bankCommands s.snap.levels) s = .next u
        ∧ exec .genFilt s = .next { u with
          fbValid := true, fbKey := ⟨s.snap.levels, s.snap.fmin, s.snap.fmax⟩ }
        ∧ u.ustep = s.ustep + s.snap.levels ∧ u.spectra = s.spectra)
    ∧ DecodeOnlyErrors .genFilt s

/-! ## The frame (44_orchestrator) -/

/-- R255 of 44, step 2: the first frame copies `LIN` to `LPREV` and to `LOUT`, becomes `SteadyState`, and does nothing
else; R282 of 60: without a session FRAME is abandoned with E_STATE. -/
def Obligations.FirstFramePassesThrough : Prop :=
  ∀ s : State, encode .frame = 0x00000003
    ∧ (s.session = .ready → ∃ t, exec .frame s = .next t ∧ t.session = .steadyState ∧ t.busy = false
      ∧ t.ustep = s.ustep + 2
      ∧ (∀ x y, x < s.n → y < s.n →
        t.planeAt binary32 .lprev x y = s.planeAt binary32 .lin x y ∧ t.planeAt binary32 .lout x y = s.planeAt binary32 .lin x y)
      ∧ (∀ p idx, validIndex idx → ¬ ((p = .lprev ∨ p = .lout) ∧ idx < s.n * s.n) →
        t.planeElem binary32 p idx = s.planeElem binary32 p idx)
      ∧ { t with session := s.session, busy := s.busy, ustep := s.ustep, planes := s.planes } = s)
    ∧ DecodeOnlyErrors .frame s

/-- R255 of 44, steps 3 to 10 in single-band mode: FRAME completes and leaves what its expansion leaves; `LIN` is not
written, `LPREV` ends equal to `LIN`, `STATE` and `FBVALID` are unchanged, and `19 + 6n` dispatches are counted, one more
with a debug flag (R256). -/
def Obligations.SteadyFrameSingleBand : Prop :=
  ∀ s : State, s.session = .steadyState → s.snap.pyr = false →
    ∃ t, exec .frame s = .next t
      ∧ runCommands (frameCommands s.snap [.pamp 0x44 0x42 0x43]) s = .next t
      ∧ t.session = .steadyState ∧ t.pp = false ∧ t.fbValid = s.fbValid
      ∧ t.ustep = s.ustep + (19 + 6 * s.logn.val + if s.snap.showmag || s.snap.showph then 1 else 0)
      ∧ ∀ x y, x < s.n → y < s.n →
        t.planeAt binary32 .lin x y = s.planeAt binary32 .lin x y ∧ t.planeAt binary32 .lprev x y = s.planeAt binary32 .lin x y

/-- R255 of 44, step 6, R229 of 43: FRAME in pyramid mode completes and leaves what its expansion leaves, with the bank
regenerated exactly when it is stale; afterwards `FBVALID = 1` and `FBKEY` is the snapshot's triple. -/
def Obligations.SteadyFramePyramid : Prop :=
  ∀ s : State, s.session = .steadyState → s.snap.pyr = true → 1 ≤ s.snap.levels → s.snap.levels ≤ Config.pyrMax →
    let key : BankKey Number := ⟨s.snap.levels, s.snap.fmin, s.snap.fmax⟩
    let stale := ¬ (s.fbValid = true ∧ s.fbKey = key)
    ∃ t, exec .frame s = .next t
      ∧ (stale → runCommands (frameCommands s.snap (.genFilt :: bandCommands s.snap.levels)) s = .next t
        ∧ t.ustep = s.ustep + (19 + 6 * s.logn.val + 5 * s.snap.levels
          + if s.snap.showmag || s.snap.showph then 1 else 0))
      ∧ (¬ stale → runCommands (frameCommands s.snap (bandCommands s.snap.levels)) s = .next t
        ∧ t.ustep = s.ustep + (19 + 6 * s.logn.val + 4 * s.snap.levels
          + if s.snap.showmag || s.snap.showph then 1 else 0))
      ∧ t.session = .steadyState ∧ t.pp = false ∧ t.fbValid = true ∧ t.fbKey = key
      ∧ ∀ x y, x < s.n → y < s.n →
        t.planeAt binary32 .lin x y = s.planeAt binary32 .lin x y ∧ t.planeAt binary32 .lprev x y = s.planeAt binary32 .lin x y

/-! ## Invariants -/

/-- The state after reset meets every invariant stated below. -/
def Obligations.ResetMeetsInvariants : Prop :=
  CanonicalMemories State.reset ∧ SessionTables binary32 State.reset ∧ RunningSound State.reset ∧ BankHonest binary32 State.reset
    ∧ FlagsLegal State.reset

/-- Every step keeps the canonical form of the four memories (log 8). -/
def Obligations.StepKeepsMemoriesCanonical : Prop :=
  ∀ s t : State, CanonicalMemories s → step s = .next t → CanonicalMemories t

/-- R24, R30 of 10, R252 of 44: every step keeps the canvas within capacity and the tables immutable in a session. -/
def Obligations.StepKeepsSessionTables : Prop :=
  ∀ s t : State, SessionTables binary32 s → step s = .next t → SessionTables binary32 t

/-- R231 of 43: every step keeps the filter bank honest. -/
def Obligations.StepKeepsBankHonest : Prop :=
  ∀ s t : State, RunningSound s ∧ BankHonest binary32 s → step s = .next t → RunningSound t ∧ BankHonest binary32 t

/-- R35 of 10, R280 of 60, R169 of 41: every step keeps the flags legal, and `PP` is 0 after every step. -/
def Obligations.StepKeepsFlagsLegal : Prop := ∀ s t : State, FlagsLegal s → step s = .next t → FlagsLegal t

/-! ## Numbers -/

/-- The arithmetic of `binary32` is exact where the exact result can be stored, which is the model's choice of that instance
(log 2, DESIGN CHOICE; R6 of 00 and U10 leave it to the instance); negation always is, and a quotient
is exact for a divisor that is not zero. -/
def Obligations.ArithmeticIsExactWhereStorable : Prop :=
  ∀ x y : Number,
    (storable (x.val + y.val) = true → (numerics.add x y).val = x.val + y.val)
    ∧ (storable (x.val - y.val) = true → (numerics.sub x y).val = x.val - y.val)
    ∧ (storable (x.val * y.val) = true → (numerics.mul x y).val = x.val * y.val)
    ∧ (y.val ≠ 0 → storable (x.val / y.val) = true → (numerics.div x y).val = x.val / y.val)
    ∧ (numerics.neg x).val = -x.val

/-- The fixed points that R6 and R14 of 00 ask of every instance (`NumSystem.Lawful`: `atan2` at the origin and on the
negative real axis, and the bounds of R5 and R195) hold in the machine's arithmetic and in every reference instance. The
other clauses speak of the machine's arithmetic alone and are the MODEL'S CHOICE (log 3, DESIGN CHOICE), which R6 leaves to
the instance: `atan2(0, r) = 0` for `r > 0`, the range of `atan2`, a root that is never negative and exact on squares, and
the bounds on the stored `pi`. -/
def Obligations.ElementaryFixedPoints : Prop :=
  binary32.Lawful
  ∧ (∀ M : NumSystem ℝ ℝ, IsReference M → M.Lawful)
  ∧ (∀ r : Number, numerics.atan2 Number.zero r = if r.val < 0 then numerics.pi else Number.zero)
  ∧ (∀ i r : Number, -numerics.pi.val < (numerics.atan2 i r).val ∧ (numerics.atan2 i r).val ≤ numerics.pi.val)
  ∧ (∀ x : Number, 0 ≤ (numerics.sqrt x).val)
  ∧ (∀ x y : Number, 0 ≤ x.val → x.val = y.val * y.val → 0 ≤ y.val → numerics.sqrt x = y)
  ∧ 3 ≤ numerics.pi.val ∧ numerics.pi.val < 4

/-- R75 of 20: in the machine of binary32 numbers `enc` and `dec` are inverse to each other, but for the pattern of a negative
zero, which the model reads as the one zero (log 1); in every reference instance both are the identity. -/
def Obligations.EncodingOfNumbersRoundTrips : Prop :=
  (∀ v : Number, Number.dec? v.enc = some v)
  ∧ (∀ w : Word, isFinitePattern w = true → ∃ v, Number.dec? w = some v ∧ (w ≠ 0x80000000 → v.enc = w))
  ∧ ∀ M : NumSystem ℝ ℝ, IsReference M → ∀ v : ℝ, M.enc v = v ∧ M.dec v = some v

/-- R131 of 40: `reverseBits`: bit `n-1-t` of the result is bit `t` of `i`, the result is below `2^n`, and the
function is an involution. -/
def Obligations.ReverseBitsIsInvolution : Prop :=
  ∀ i n : Nat, i < 2 ^ n →
    reverseBits i n < 2 ^ n ∧ (∀ t, t < n → (reverseBits i n).testBit (n - 1 - t) = i.testBit t)
    ∧ reverseBits (reverseBits i n) n = i

/-! ## The rules over the reference instance -/

/-- R38 of 10 over the reals, for every content of the registers: the formula of each effective parameter, the canvas
registers sampled with them (R250 of 44), and after clamping `1 <= L <= PYR_MAX`, `0 < fmin < fmax <= 1/2`,
`0 <= lo < hi <= 1`, `steep > 0`, `sens > 0`. -/
def Obligations.EffectiveParametersInRange : Prop :=
  ∀ (e : ℝ) (r : RawConfig ℝ), 0 < e → e ≤ 1 / 8 →
    let P := effective realNumerics e Config.pyrMax r
    (P.levels = min (max r.pyrLevels 1) Config.pyrMax
      ∧ P.fmax = min (max r.maxFreq (2 * e)) (1 / 2) ∧ P.fmin = min (max r.minFreq e) (P.fmax - e)
      ∧ P.hi = min (max r.highCut e) 1 ∧ P.lo = min (max r.lowCut 0) (P.hi - e)
      ∧ P.steep = max r.steepness e ∧ P.sens = max r.motionSens e
      ∧ P.pscale = r.phaseScale ∧ P.mthr = r.magThresh ∧ P.mscale = r.magScale ∧ P.eenh = r.edgeEnh
      ∧ P.pyr = r.ctrl.getLsbD 0 ∧ P.bpen = r.ctrl.getLsbD 1 ∧ P.edges = r.ctrl.getLsbD 2
      ∧ P.showmag = r.ctrl.getLsbD 3 ∧ P.showph = r.ctrl.getLsbD 4
      ∧ P.canvasW = r.canvasW ∧ P.canvasH = r.canvasH)
    ∧ 1 ≤ P.levels ∧ P.levels ≤ Config.pyrMax ∧ 0 < P.fmin ∧ P.fmin < P.fmax ∧ P.fmax ≤ 1 / 2
    ∧ 0 ≤ P.lo ∧ P.lo < P.hi ∧ P.hi ≤ 1 ∧ 0 < P.steep ∧ 0 < P.sens

/-- R192 of 42: the smoothstep over the reals. -/
def Obligations.SmoothstepShape : Prop :=
  (∀ t : ℝ, t ≤ 0 → smoothstep realNumerics t = 0)
  ∧ (∀ t : ℝ, 0 < t → t < 1 → smoothstep realNumerics t = 3 * t * t - 2 * t * t * t)
  ∧ (∀ t : ℝ, 1 ≤ t → smoothstep realNumerics t = 1)
  ∧ (∀ t u : ℝ, t ≤ u → smoothstep realNumerics t ≤ smoothstep realNumerics u)
  ∧ smoothstep realNumerics (1 / 2) = 1 / 2
  ∧ ∀ t : ℝ, smoothstep realNumerics t + smoothstep realNumerics (1 - t) = 1

/-- R193, R202 of 42, over the reals: the gate's formula; it lies in `[0, 1]`, is 0 at and outside the cutoffs, 1 on the middle when `steep >= 1`; and
`g(0.02) = 0`, `g(0.2) = 1` at the parameters of DOC0 §8. -/
def Obligations.GateIsBandPass : Prop :=
  (∀ lo hi steep f : ℝ, lo < hi → 0 < steep →
    let g := gate realNumerics lo hi steep f
    let w := (hi - lo) / (2 * steep)
    g = smoothstep realNumerics ((f - lo) / w) * (1 - smoothstep realNumerics ((f - (hi - w)) / w))
    ∧ 0 ≤ g ∧ g ≤ 1 ∧ (f ≤ lo ∨ hi ≤ f → g = 0) ∧ (1 ≤ steep → lo + w ≤ f → f ≤ hi - w → g = 1))
  ∧ gate realNumerics 0.05 0.4 3 0.02 = 0 ∧ gate realNumerics 0.05 0.4 3 0.2 = 1

/-- R194 of 42: the wrapped phase delta lies in `(-pi, pi]` and differs from the delta by a multiple of `2*pi`. -/
def Obligations.WrappedPhaseInRange : Prop :=
  ∀ t : ℝ, -(2 * Real.pi) < t → t < 2 * Real.pi →
    let w := wrapPhase realNumerics t
    (-Real.pi < w) ∧ w ≤ Real.pi ∧ (w = t ∨ w = t - 2 * Real.pi ∨ w = t + 2 * Real.pi)

/-- R221, R227 of 43, R191 of 42, over the reals: the band edges between the outer ones, each mask the difference of two
edges and, for `fmin < fmax`, in `[0, 1]`; the masks sum to exactly 1 at every frequency, for every level count; and the
radial frequency of a bin. -/
def Obligations.BandMasksSumToOne : Prop :=
  (∀ (levels : Nat) (fmin fmax f : ℝ), 1 ≤ levels →
    (∀ j, 0 < j → j < levels →
      let D := (fmax - fmin) / levels
      let b := fmin + j * D
      bandEdge realNumerics levels fmin fmax j f = smoothstep realNumerics ((f - (b - D / 2)) / D))
    ∧ bandEdge realNumerics levels fmin fmax 0 f = 1 ∧ bandEdge realNumerics levels fmin fmax levels f = 0
    ∧ (∀ i, bandMask realNumerics levels fmin fmax i f
        = bandEdge realNumerics levels fmin fmax i f - bandEdge realNumerics levels fmin fmax (i + 1) f)
    ∧ (fmin < fmax → ∀ i, i < levels →
      0 ≤ bandMask realNumerics levels fmin fmax i f ∧ bandMask realNumerics levels fmin fmax i f ≤ 1)
    ∧ ((List.range levels).map fun i => bandMask realNumerics levels fmin fmax i f).sum = 1)
  ∧ ∀ n u v : Nat,
    radialFrequency realNumerics n u v
      = min (1 / 2) (Real.sqrt (((u : ℝ) - (n / 2 : ℕ)) ^ 2 + ((v : ℝ) - (n / 2 : ℕ)) ^ 2) / n)

/-- R201, R203 of 42: over the reals, an amplified bin has magnitude `|mscale| * |c|` whatever the phases; and with
`edges = 0`, a bin equal to the previous one is returned as `mscale * c`. -/
def Obligations.AmplifierKeepsMagnitude : Prop :=
  ∀ (P : Params ℝ) (f grad : ℝ) (c p : Cplx ℝ),
    ‖(ampBin realNumerics P f grad c p).toComplex‖ = |P.mscale| * ‖c.toComplex‖
    ∧ (P.edges = false → ampBin realNumerics P f grad c c = ⟨P.mscale * c.re, P.mscale * c.im⟩)

/-- R166 of 41: over the reals, the bit-reversal permute and the `n` butterfly passes turn a line of length `N = 2^n`
into its discrete Fourier transform `F1`; in every reference instance of the machine the row half of the transform macros
replaces every row of the current work buffer by its `F1`, the column half every column, and both in sequence give the
two-dimensional transform `F`. -/
def Obligations.PassesComputeTransform : Prop :=
  (∀ (n : Nat) (z : Nat → Cplx ℝ) (u : Nat), u < 2 ^ n →
    (linePasses n z n u).toComplex
      = ∑ x ∈ Finset.range (2 ^ n),
        (z x).toComplex * Complex.exp (-2 * Real.pi * Complex.I * (u * x / 2 ^ n)))
  ∧ ∀ (M : NumSystem ℝ ℝ) (s : State ℝ ℝ), IsReference M → s.session ≠ .uninitialized → SessionTables M s →
    ∀ u v, u < s.n → v < s.n →
      let rows := State.passes (State.bflyRow M) s.logn.val (s.pingPong (State.brevRow M))
      let columns := State.passes (State.bflyCol M) s.logn.val (s.pingPong (State.brevCol M))
      let both := s.rowsAndColumns M
      let a := fun x y => (s.specAt M (workBuffer s.pp) x y).toComplex
      (rows.specAt M (workBuffer rows.pp) u v).toComplex = transform s.n (fun x => a x v) u
      ∧ (columns.specAt M (workBuffer columns.pp) u v).toComplex = transform s.n (fun y => a u y) v
      ∧ (both.specAt M (workBuffer both.pp) u v).toComplex = transform2 s.n a u v

/-- R170, R173 of 41: in every reference instance FFT.FWD gives `d = F(CENTER(WIDEN(a)))`; the zero frequency at the centre,
(a); the energy, (b); a plane that is 1 at one point, (c); and the conjugate symmetry, (d). -/
def Obligations.ForwardTransformOverReals : Prop :=
  ∀ (M : NumSystem ℝ ℝ) (s : State ℝ ℝ) (d a : Byte) (dq : Spectrum) (ap : Plane), IsReference M →
    spectrumOf d = some dq → planeOf a = some ap → s.session ≠ .uninitialized → SessionTables M s →
    ∃ t, execOver M (.fftFwd d a) s = .next t ∧
      let z := fun u v => (t.specAt M dq u v).toComplex
      let p := fun x y => s.planeAt M ap x y
      (∀ u v, u < s.n → v < s.n →
        z u v = transform2 s.n (fun x y => (p x y : ℂ) * (-1) ^ (x + y)) u v)
      ∧ z (s.n / 2) (s.n / 2) = ∑ y ∈ Finset.range s.n, ∑ x ∈ Finset.range s.n, (p x y : ℂ)
      ∧ ∑ v ∈ Finset.range s.n, ∑ u ∈ Finset.range s.n, ‖z u v‖ ^ 2
        = (s.n * s.n : ℕ) * ∑ y ∈ Finset.range s.n, ∑ x ∈ Finset.range s.n, p x y ^ 2
      ∧ (∀ x₀ y₀, x₀ < s.n → y₀ < s.n →
        (∀ x y, x < s.n → y < s.n → p x y = if x = x₀ ∧ y = y₀ then 1 else 0) →
        ∀ u v, u < s.n → v < s.n →
          z u v = (-1) ^ (x₀ + y₀) * Complex.exp (-2 * Real.pi * Complex.I * ((u * x₀ + v * y₀) / s.n))
          ∧ ‖z u v‖ = 1)
      ∧ ∀ u v, u < s.n → v < s.n →
        z u v = (starRingEnd ℂ) (z ((s.n - u) % s.n) ((s.n - v) % s.n))

/-- R172, R174 of 41: in every reference instance FFT.INV gives the closed form of R172, and the inverse of the forward
transform of a plane is that plane exactly. -/
def Obligations.InverseTransformOverReals : Prop :=
  (∀ (M : NumSystem ℝ ℝ) (s : State ℝ ℝ) (d a : Byte) (dp : Plane) (aq : Spectrum), IsReference M →
    planeOf d = some dp → spectrumOf a = some aq → s.session ≠ .uninitialized → SessionTables M s →
    ∃ t, execOver M (.fftInv d a) s = .next t
      ∧ ∀ x y, x < s.n → y < s.n →
        t.planeAt M dp x y = ((-1) ^ (x + y) * (1 / (s.n * s.n : ℂ))
          * ∑ v ∈ Finset.range s.n, ∑ u ∈ Finset.range s.n,
            (s.specAt M aq u v).toComplex * Complex.exp (2 * Real.pi * Complex.I * ((u * x + v * y) / s.n)) : ℂ).re)
  ∧ ∀ (M : NumSystem ℝ ℝ) (s : State ℝ ℝ) (q d a : Byte) (sq : Spectrum) (dp ap : Plane), IsReference M →
    spectrumOf q = some sq → planeOf d = some dp → planeOf a = some ap → s.session ≠ .uninitialized →
    SessionTables M s →
    ∃ t u, execOver M (.fftFwd q a) s = .next t ∧ execOver M (.fftInv d q) t = .next u
      ∧ ∀ x y, x < s.n → y < s.n → u.planeAt M dp x y = s.planeAt M ap x y

/-- S1, S3 to S6 of 95, with R174, R173 of 41, R201, R202 of 42, R227 of 43: every reference instance has the testable
properties of DOC0 §8 within its `TOL`, which is 0 (R5 of 00). How the properties read for an arbitrary instance is the
model's (`Acceptable`; log 25). -/
def Obligations.ReferenceIsAcceptable : Prop := ∀ M : NumSystem ℝ ℝ, IsReference M → Acceptable M id
end

