-- ==== Sys2Proof/Laws/Memory.lean ====
section
/-! SUPPORT. The laws of element memory: read after write, and that every operation keeps the canonical form. -/

namespace Sys2Proof.Machine

variable {α : Type}

@[simp] theorem Memory.get?_nil (a : Nat) : Memory.get? ([] : Memory α) a = none := rfl

theorem Memory.get?_cons (k : Nat) (v : α) (m : Memory α) (a : Nat) :
    Memory.get? ((k, v) :: m) a = if k = a then some v else m.get? a := rfl

theorem Memory.get?_append (m₁ m₂ : Memory α) (a : Nat) :
    Memory.get? (m₁ ++ m₂) a = (m₁.get? a).or (m₂.get? a) := by
  induction m₁ with
  | nil => rfl
  | cons c r ih =>
    obtain ⟨k, v⟩ := c
    simp only [List.cons_append, Memory.get?_cons]
    split <;> simp [ih]

theorem Memory.get?_filter (p : Nat → Bool) (m : Memory α) (a : Nat) :
    Memory.get? (m.filter fun c => p c.1) a = if p a then m.get? a else none := by
  induction m with
  | nil => simp
  | cons c r ih =>
    obtain ⟨k, v⟩ := c
    by_cases hk : k = a
    · subst hk
      by_cases hp : p k <;> simp [hp, Memory.get?_cons, ih]
    · by_cases hp : p k <;> simp [hp, Memory.get?_cons, hk, ih]

theorem Memory.get?_range_map (base : Nat) (f : Nat → α) (n a : Nat) :
    Memory.get? ((List.range n).map fun i => (base + i, f i)) a
      = if base ≤ a ∧ a < base + n then some (f (a - base)) else none := by
  induction n with
  | zero => simp
  | succ n ih =>
    rw [List.range_succ, List.map_append, Memory.get?_append, ih]
    simp only [List.map_cons, List.map_nil, Memory.get?_cons, Memory.get?_nil]
    by_cases h1 : base ≤ a ∧ a < base + n
    · rw [if_pos h1, if_pos (show base ≤ a ∧ a < base + (n + 1) by omega)]; rfl
    · rw [if_neg h1]
      by_cases h2 : base + n = a
      · subst h2; simp
      · rw [if_neg h2, if_neg (show ¬ (base ≤ a ∧ a < base + (n + 1)) by omega)]; rfl

/-- What reading after `fill` gives: the new values in the range, the old elements elsewhere. -/
theorem Memory.get?_fill (m : Memory α) (base n : Nat) (f : Nat → α) (a : Nat) :
    (m.fill base n f).get? a = if base ≤ a ∧ a < base + n then some (f (a - base)) else m.get? a := by
  have h1 := Memory.get?_filter (fun k => decide (k < base)) m a
  have h2 := Memory.get?_filter (fun k => decide (base + n ≤ k)) m a
  simp only [decide_eq_true_eq] at h1 h2
  simp only [Memory.fill, Memory.get?_append, Memory.get?_range_map, h1, h2]
  split_ifs <;> first | omega | simp

/-- What reading after `set` gives. -/
theorem Memory.get?_set (m : Memory α) (a : Nat) (v : α) (b : Nat) :
    (m.set a v).get? b = if a = b then some v else m.get? b := by
  induction m with
  | nil => rfl
  | cons c r ih =>
    obtain ⟨k, w⟩ := c
    by_cases h1 : a < k
    · simp only [Memory.set, if_pos h1, Memory.get?_cons]
    · by_cases h2 : a = k
      · subst h2
        simp only [Memory.set, if_neg h1, if_true, Memory.get?_cons]
        split <;> rfl
      · simp only [Memory.set, if_neg h1, if_neg h2, Memory.get?_cons, ih]
        by_cases h3 : k = b
        · rw [if_pos h3, if_neg (by omega), if_pos h3]
        · rw [if_neg h3, if_neg h3]

/-! ## The canonical form -/

theorem Memory.wf_iff (m : Memory α) : Memory.wf m = true ↔ m.Pairwise fun c d => c.1 < d.1 := by
  simp [Memory.wf]

@[simp] theorem Memory.wf_nil : Memory.wf ([] : Memory α) = true := by simp [Memory.wf]

theorem Memory.mem_set_key (m : Memory α) (a : Nat) (v : α) {c : Nat × α} (h : c ∈ m.set a v) :
    c.1 = a ∨ c ∈ m := by
  induction m with
  | nil => simp [Memory.set] at h; simp [h]
  | cons d r ih =>
    obtain ⟨k, w⟩ := d
    unfold Memory.set at h
    split at h
    · rcases List.mem_cons.mp h with h | h
      · exact .inl (by rw [h])
      · exact .inr h
    · split at h
      · rcases List.mem_cons.mp h with h | h
        · exact .inl (by rw [h])
        · exact .inr (List.mem_cons_of_mem _ h)
      · rcases List.mem_cons.mp h with h | h
        · exact .inr (h ▸ List.mem_cons_self)
        · exact (ih h).imp id (List.mem_cons_of_mem _)

theorem Memory.wf_set (m : Memory α) (a : Nat) (v : α) (h : m.wf = true) : (m.set a v).wf = true := by
  rw [Memory.wf_iff] at *
  induction m with
  | nil => simp [Memory.set]
  | cons c r ih =>
    obtain ⟨k, w⟩ := c
    have hc := List.pairwise_cons.mp h
    unfold Memory.set
    split
    · rename_i hlt
      refine List.pairwise_cons.mpr ⟨fun d hd => ?_, h⟩
      rcases List.mem_cons.mp hd with hd | hd
      · rw [hd]; exact hlt
      · exact Nat.lt_trans hlt (hc.1 d hd)
    · split
      · rename_i h1 h2
        subst h2
        exact List.pairwise_cons.mpr ⟨fun d hd => hc.1 d hd, hc.2⟩
      · rename_i h1 h2
        refine List.pairwise_cons.mpr ⟨fun d hd => ?_, ih hc.2⟩
        rcases Memory.mem_set_key r a v hd with hd | hd
        · show k < d.1
          omega
        · exact hc.1 d hd

theorem Memory.wf_fill (m : Memory α) (base n : Nat) (f : Nat → α) (h : m.wf = true) :
    (m.fill base n f).wf = true := by
  rw [Memory.wf_iff] at *
  unfold Memory.fill
  have hmid : ((List.range n).map fun i => (base + i, f i)).Pairwise fun c d => c.1 < d.1 := by
    rw [List.pairwise_map]
    exact List.pairwise_lt_range.imp fun hab => by simpa using hab
  refine List.pairwise_append.mpr ⟨List.pairwise_append.mpr ⟨h.filter _, hmid, ?_⟩, h.filter _, ?_⟩
  · intro c hc d hd
    obtain ⟨i, -, rfl⟩ := List.mem_map.mp hd
    have := (List.mem_filter.mp hc).2
    simp only [decide_eq_true_eq] at this
    show c.1 < base + i
    omega
  · intro c hc d hd
    have hd' := (List.mem_filter.mp hd).2
    simp only [decide_eq_true_eq] at hd'
    rcases List.mem_append.mp hc with hc | hc
    · have := (List.mem_filter.mp hc).2
      simp only [decide_eq_true_eq] at this
      omega
    · obtain ⟨i, hi, rfl⟩ := List.mem_map.mp hc
      have := List.mem_range.mp hi
      show base + i < d.1
      omega

end Sys2Proof.Machine
end

