-- ==== Sys2Proof/Laws/Numerics.lean ====
section
/-! SUPPORT. Which rational numbers the storage format holds, what a pattern stands for, and when the machine's
arithmetic gives the exact result (log 2). -/

namespace Sys2Proof

theorem Number.ext_val {x y : Number} (h : x.val = y.val) : x = y := by
  cases x; cases y; cases h; rfl

/-! ## Units of `2^-149` -/

theorem binary32Units_neg (q : ℚ) : binary32Units (-q) = binary32Units q := by
  simp [binary32Units, Rat.neg_num, Rat.neg_den]

theorem storable_neg (q : ℚ) : storable (-q) = storable q := by
  simp only [storable, binary32Units_neg, Rat.neg_den]

/-- `a` units make a number whose denominator divides `2^149` and whose magnitude is `a` units. -/
theorem units_mkRat (a : Nat) :
    2 ^ 149 % (mkRat a (2 ^ 149)).den = 0 ∧ binary32Units (mkRat a (2 ^ 149)) = a := by
  have hd : (mkRat a (2 ^ 149)).den = 2 ^ 149 / Nat.gcd a (2 ^ 149) := by
    rw [Rat.den_mkRat]; simp [Nat.gcd_comm]
  have hn : (mkRat a (2 ^ 149)).num = a / Nat.gcd a (2 ^ 149) := by
    rw [Rat.num_mkRat]; simp [Nat.gcd_comm]
  have hg1 : Nat.gcd a (2 ^ 149) ∣ 2 ^ 149 := Nat.gcd_dvd_right _ _
  have hg2 : Nat.gcd a (2 ^ 149) ∣ a := Nat.gcd_dvd_left _ _
  have hg0 : 0 < Nat.gcd a (2 ^ 149) := Nat.gcd_pos_of_pos_right _ (Nat.two_pow_pos _)
  obtain ⟨k, hk⟩ := hg1
  obtain ⟨l, hl⟩ := hg2
  constructor
  · rw [hd]
    exact Nat.mod_eq_zero_of_dvd (Nat.div_dvd_of_dvd ⟨k, hk⟩)
  · unfold binary32Units
    rw [hd, hn]
    have h1 : 2 ^ 149 / Nat.gcd a (2 ^ 149) = k := Nat.div_eq_of_eq_mul_right hg0 hk
    have hk0 : 0 < k := by
      rcases Nat.eq_zero_or_pos k with h | h
      · rw [h, Nat.mul_zero] at hk; exact absurd hk (by positivity)
      · exact h
    have h2 : 2 ^ 149 / k = Nat.gcd a (2 ^ 149) := Nat.div_eq_of_eq_mul_left hk0 hk
    have h3 : ((a : ℤ) / (Nat.gcd a (2 ^ 149) : ℤ)).natAbs = l := by
      rw [← Int.natCast_div, Int.natAbs_natCast]
      exact Nat.div_eq_of_eq_mul_right hg0 hl
    rw [h1, h2, h3, Nat.mul_comm]
    exact hl.symm

/-- Exactly the multiples of `2^-149` with at most 24 significant bits below `2^128` can be stored. -/
theorem storable_mkRat (a : Nat) :
    storable (mkRat a (2 ^ 149)) = true ↔ a < 2 ^ 277 ∧ a % 2 ^ (Nat.log2 a - 23) = 0 := by
  unfold storable
  rw [(units_mkRat a).1, (units_mkRat a).2]
  simp only [beq_self_eq_true, Bool.true_and, Bool.and_eq_true, decide_eq_true_eq, beq_iff_eq]

theorem log2_scaled {f e : Nat} (h1 : 2 ^ 23 ≤ f) (h2 : f < 2 ^ 24) : Nat.log2 (f * 2 ^ e) = 23 + e := by
  have h0 : f * 2 ^ e ≠ 0 := Nat.mul_ne_zero (by omega) (Nat.two_pow_pos e).ne'
  rw [Nat.log2_eq_iff h0]
  constructor
  · rw [Nat.pow_add]; exact Nat.mul_le_mul_right _ h1
  · rw [show 23 + e + 1 = 24 + e by omega, Nat.pow_add]
    exact Nat.mul_lt_mul_of_pos_right h2 (Nat.two_pow_pos e)

/-- Every finite pattern stands for a number that can be stored (R75 of 20). -/
theorem storable_patternValue {w : Word} (h : isFinitePattern w = true) : storable (patternValue w) = true := by
  have key : storable (mkRat (patternUnits w) (2 ^ 149)) = true := by
    rw [storable_mkRat]
    unfold patternUnits
    have he : (w.extractLsb' 23 8).toNat ≤ 254 := by
      have := (w.extractLsb' 23 8).isLt
      simp only [isFinitePattern, bne_iff_ne, ne_eq] at h
      omega
    have hf := (w.extractLsb' 0 23).isLt
    generalize (w.extractLsb' 23 8).toNat = e at he
    generalize (w.extractLsb' 0 23).toNat = f at hf
    simp only
    by_cases h0 : e = 0
    · rw [if_pos h0]
      have hl : Nat.log2 f - 23 = 0 := by
        by_cases hz : f = 0
        · subst hz; decide
        · have := (Nat.log2_lt hz).mpr (show f < 2 ^ 23 from hf); omega
      rw [hl, pow_zero]
      refine And.intro ?_ (Nat.mod_one f)
      exact lt_of_lt_of_le hf (pow_le_pow_right₀ one_le_two (by omega : 23 ≤ 277))
    · rw [if_neg h0, log2_scaled (f := 2 ^ 23 + f) (by omega) (by omega), Nat.add_sub_cancel_left]
      refine ⟨?_, Nat.mul_mod_left _ _⟩
      calc (2 ^ 23 + f) * 2 ^ (e - 1) < 2 ^ 24 * 2 ^ (e - 1) :=
            Nat.mul_lt_mul_of_pos_right (by omega) (Nat.two_pow_pos _)
        _ = 2 ^ (24 + (e - 1)) := (Nat.pow_add _ _ _).symm
        _ ≤ 2 ^ 277 := Nat.pow_le_pow_right (by omega) (by omega)
  unfold patternValue
  simp only
  split
  · rw [storable_neg]; exact key
  · exact key

/-! ## Stored numbers -/

theorem Number.ofRat?_of_storable {q : ℚ} (h : storable q = true) : Number.ofRat? q = some ⟨q, h⟩ := dif_pos h

theorem Number.ofRat?_val (x : Number) : Number.ofRat? x.val = some x := Number.ofRat?_of_storable x.fits

theorem Number.ofRat?_eq_some {q : ℚ} {x : Number} : Number.ofRat? q = some x ↔ x.val = q := by
  constructor
  · intro h
    unfold Number.ofRat? at h
    split at h
    · cases h; rfl
    · cases h
  · rintro rfl; exact Number.ofRat?_val x

/-- `dec` of a pattern is the number it stands for. -/
theorem Number.dec?_eq_some {w : Word} {v : Number} :
    Number.dec? w = some v ↔ isFinitePattern w = true ∧ v.val = patternValue w := by
  unfold Number.dec?
  split
  · rename_i h; rw [Number.ofRat?_eq_some]; exact ⟨fun hv => ⟨h, hv⟩, fun hv => hv.2⟩
  · rename_i h; exact ⟨fun hv => (nomatch hv), fun hv => absurd hv.1 h⟩

theorem isFinitePattern_foldToFinite (w : Word) : isFinitePattern (foldToFinite w) = true := by
  unfold foldToFinite
  split
  · assumption
  · simp only [isFinitePattern, bne_iff_ne, ne_eq]
    intro h
    have hb : ((w &&& 0xFF7FFFFF#32).extractLsb' 23 8).getLsbD 0 = true := by
      rw [BitVec.eq_of_toNat_eq (x := (w &&& 0xFF7FFFFF#32).extractLsb' 23 8) (y := 255#8) h]; decide
    rw [BitVec.getLsbD_extractLsb', BitVec.getLsbD_and] at hb
    simp at hb

/-- A free number is the value of a finite pattern. -/
theorem Number.ofFree_val (w : Word) : (Number.ofFree w).val = patternValue (foldToFinite w) := by
  unfold Number.ofFree
  rw [Number.ofRat?_of_storable (storable_patternValue (isFinitePattern_foldToFinite w))]
  rfl

theorem Number.ofFree_of_finite {w : Word} (h : isFinitePattern w = true) : (Number.ofFree w).val = patternValue w := by
  rw [Number.ofFree_val, foldToFinite, if_pos h]

/-- A free number bounded below is not negative. -/
theorem Number.ofFreeNonneg_nonneg (w : Word) : 0 ≤ (Number.ofFreeNonneg w).val := by
  unfold Number.ofFreeNonneg
  rw [Number.ofFree_val]
  have hs : (foldToFinite (w &&& 0x7FFFFFFF#32)).msb = false := by
    unfold foldToFinite
    split <;> simp [BitVec.msb_eq_getLsbD_last]
  unfold patternValue
  simp only [hs, Bool.false_eq_true, if_false]
  rw [Rat.mkRat_eq_div]
  positivity

/-! ## Exact arithmetic -/

theorem Number.result_val {op : NumOp} {x y q : ℚ} (h : storable q = true) : (Number.result op x y q).val = q := by
  unfold Number.result
  rw [Number.ofRat?_of_storable h]
  rfl

/-- Negation is always exact. -/
theorem Number.neg_val (x : Number) : (Number.neg x).val = -x.val :=
  Number.result_val (by rw [storable_neg]; exact x.fits)

/-- A power of two of the size of a canvas is exact (R131 of 40: "`N*N` converted exactly"). -/
theorem Number.ofNat_two_pow {k : Nat} (h : k ≤ 32) : (Number.ofNat (2 ^ k)).val = ((2 ^ k : Nat) : ℚ) := by
  refine Number.result_val ?_
  interval_cases k <;> decide +kernel

/-- Small integers are exact. -/
theorem Number.ofNat_small {k : Nat} (h : k ≤ 3) : (Number.ofNat k).val = k := by
  refine Number.result_val ?_
  interval_cases k <;> decide +kernel

theorem Number.ofNat_zero : Number.ofNat 0 = Number.zero := Number.ext_val (Number.ofNat_small (by omega))

end Sys2Proof
end

