-- ==== Sys2Proof/Laws/Operands.lean ====
section
/-! SUPPORT. What the identifier functions and the operand checks of Machine/Operands.lean can answer: for each check,
the conditions under which it gives its operands and the error it gives otherwise. -/

namespace Sys2Proof

/-! ## Capacities -/

theorem Config.lognMax_pos : 1 ≤ Config.lognMax := Nat.succ_le_succ (Nat.zero_le _)

theorem Config.lognMax_le : Config.lognMax ≤ 16 := Config.lognMaxIndex.isLt

theorem Config.pyrMax_pos : 1 ≤ Config.pyrMax := Nat.succ_le_succ (Nat.zero_le _)

theorem Config.pyrMax_le : Config.pyrMax ≤ 32 := Config.pyrMaxIndex.isLt

/-! ## Identifiers -/

/-- Everything `levelOf` can answer. -/
theorem levelOf_eq_some {base q : Nat} {i : Fin 32} :
    levelOf base q = some i ↔ q = base + i.val ∧ i.val < Config.pyrMax := by
  unfold levelOf
  split
  · rename_i h
    split
    · rename_i h2
      rw [Option.some.injEq, Fin.ext_iff]
      show q - base = i.val ↔ _
      omega
    · rename_i h2
      simp only [reduceCtorEq, false_iff, not_and, not_lt]
      omega
  · rename_i h
    simp only [reduceCtorEq, false_iff, not_and, not_lt]
    have := i.isLt
    omega

theorem levelOf_add {base : Nat} {i : Fin 32} (h : i.val < Config.pyrMax) : levelOf base (base + i.val) = some i :=
  levelOf_eq_some.mpr ⟨rfl, h⟩

theorem Plane.code_lt (p : Plane) : p.code < 0x40 := by
  cases p <;> simp only [Plane.code] <;> omega

theorem Spectrum.code_lt (q : Spectrum) : q.code < 0xC0 := by
  cases q <;> simp only [Spectrum.code] <;> omega

/-- Different planes have different identifiers (R28, R29 of 10). -/
theorem Plane.code_injective {p q : Plane} (h : p.code = q.code) : p = q := by
  cases p <;> cases q <;> simp only [Plane.code] at h <;> first | rfl | omega | (congr 1; omega)

/-- Different spectra have different identifiers (R28, R29 of 10). -/
theorem Spectrum.code_injective {p q : Spectrum} (h : p.code = q.code) : p = q := by
  cases p <;> cases q <;> simp only [Spectrum.code] at h <;> first | rfl | omega | (congr 1; omega)

/-- A byte that names a plane is that plane's identifier. -/
theorem planeOf_code {q : Byte} {p : Plane} (h : planeOf q = some p) : q.toNat = p.code := by
  unfold planeOf at h
  split at h
  · cases h; assumption
  · cases h; assumption
  · cases h; assumption
  · cases h; assumption
  · obtain ⟨i, hi, rfl⟩ := Option.map_eq_some_iff.mp h
    exact (levelOf_eq_some.mp hi).1

/-- A byte that names a spectrum is that spectrum's identifier. -/
theorem spectrumOf_code {q : Byte} {p : Spectrum} (h : spectrumOf q = some p) : q.toNat = p.code := by
  unfold spectrumOf at h
  split at h
  · cases h; assumption
  · cases h; assumption
  · cases h; assumption
  · cases h; assumption
  · cases h; assumption
  · rcases Option.or_eq_some_iff.mp h with h | ⟨-, h⟩
    · obtain ⟨i, hi, rfl⟩ := Option.map_eq_some_iff.mp h
      exact (levelOf_eq_some.mp hi).1
    · rcases Option.or_eq_some_iff.mp h with h | ⟨-, h⟩
      · obtain ⟨i, hi, rfl⟩ := Option.map_eq_some_iff.mp h
        exact (levelOf_eq_some.mp hi).1
      · obtain ⟨i, hi, rfl⟩ := Option.map_eq_some_iff.mp h
        exact (levelOf_eq_some.mp hi).1

/-- Bytes that name the same plane are equal. -/
theorem planeOf_injective {q r : Byte} {p : Plane} (hq : planeOf q = some p) (hr : planeOf r = some p) : q = r :=
  BitVec.eq_of_toNat_eq ((planeOf_code hq).trans (planeOf_code hr).symm)

/-- Bytes that name the same spectrum are equal. -/
theorem spectrumOf_injective {q r : Byte} {p : Spectrum} (hq : spectrumOf q = some p) (hr : spectrumOf r = some p) :
    q = r :=
  BitVec.eq_of_toNat_eq ((spectrumOf_code hq).trans (spectrumOf_code hr).symm)

/-- The identifier of the mask of a level the buffer file holds (R107 of 30). -/
theorem planeOf_mask {i : Nat} (h : i < Config.pyrMax) :
    planeOf (BitVec.ofNat 8 (0x20 + i)) = some (.mask (levelIndex i)) := by
  have hi : i < 32 := lt_of_lt_of_le h Config.pyrMax_le
  have hv : (levelIndex i).val = i := Nat.mod_eq_of_lt hi
  have e : (BitVec.ofNat 8 (0x20 + i)).toNat = 0x20 + (levelIndex i).val := by
    rw [BitVec.toNat_ofNat, hv, Nat.mod_eq_of_lt (by omega)]
  unfold planeOf
  rw [e]
  split <;> first | omega | rw [levelOf_add (by rw [hv]; exact h)]; rfl

/-- The identifier of the current band of a level the buffer file holds (R107 of 30). -/
theorem spectrumOf_bcur {i : Nat} (h : i < Config.pyrMax) :
    spectrumOf (BitVec.ofNat 8 (0x60 + i)) = some (.bcur (levelIndex i)) := by
  have hi : i < 32 := lt_of_lt_of_le h Config.pyrMax_le
  have hv : (levelIndex i).val = i := Nat.mod_eq_of_lt hi
  have e : (BitVec.ofNat 8 (0x60 + i)).toNat = 0x60 + (levelIndex i).val := by
    rw [BitVec.toNat_ofNat, hv, Nat.mod_eq_of_lt (by omega)]
  unfold spectrumOf
  rw [e]
  split <;> first | omega | rw [levelOf_add (by rw [hv]; exact h)]; rfl

theorem levelOf_eq_none {base q : Nat} (h : q < base ∨ base + 32 ≤ q) : levelOf base q = none := by
  unfold levelOf
  rw [dif_neg (by omega)]

/-- The identifier of the previous band of a level the buffer file holds (R107 of 30). -/
theorem spectrumOf_bprv {i : Nat} (h : i < Config.pyrMax) :
    spectrumOf (BitVec.ofNat 8 (0x80 + i)) = some (.bprv (levelIndex i)) := by
  have hi : i < 32 := lt_of_lt_of_le h Config.pyrMax_le
  have hv : (levelIndex i).val = i := Nat.mod_eq_of_lt hi
  have e : (BitVec.ofNat 8 (0x80 + i)).toNat = 0x80 + (levelIndex i).val := by
    rw [BitVec.toNat_ofNat, hv, Nat.mod_eq_of_lt (by omega)]
  unfold spectrumOf
  rw [e]
  split <;> first
    | omega
    | rw [levelOf_eq_none (base := 0x60) (by omega), levelOf_add (by rw [hv]; exact h)]; rfl

/-- The identifier of the processed band of a level the buffer file holds (R107 of 30). -/
theorem spectrumOf_bprc {i : Nat} (h : i < Config.pyrMax) :
    spectrumOf (BitVec.ofNat 8 (0xA0 + i)) = some (.bprc (levelIndex i)) := by
  have hi : i < 32 := lt_of_lt_of_le h Config.pyrMax_le
  have hv : (levelIndex i).val = i := Nat.mod_eq_of_lt hi
  have e : (BitVec.ofNat 8 (0xA0 + i)).toNat = 0xA0 + (levelIndex i).val := by
    rw [BitVec.toNat_ofNat, hv, Nat.mod_eq_of_lt (by omega)]
  unfold spectrumOf
  rw [e]
  split <;> first
    | omega
    | rw [levelOf_eq_none (base := 0x60) (by omega), levelOf_eq_none (base := 0x80) (by omega),
        levelOf_add (by rw [hv]; exact h)]; rfl

namespace Machine

variable {α ω : Type} {s : State α ω} {d a b st : Byte}

/-! ## Single checks -/

theorem needPlane_eq : needPlane d = (match planeOf d with | some p => .ok p | none => .error .illcmd) := rfl

theorem needSpectrum_eq : needSpectrum d = (match spectrumOf d with | some q => .ok q | none => .error .illcmd) := rfl

theorem needSession_ok (h : s.session ≠ .uninitialized) : needSession s = .ok () := by
  unfold needSession
  split
  · rename_i e; exact absurd e h
  · rfl

theorem needSession_error (h : s.session = .uninitialized) : needSession s = .error .state := by
  unfold needSession
  rw [h]

theorem needStage_ok (h1 : 1 ≤ st.toNat) (h2 : st.toNat ≤ s.logn.val) : needStage st s = .ok st.toNat :=
  if_pos ⟨h1, h2⟩

theorem needStage_error (h : st.toNat = 0 ∨ s.logn.val < st.toNat) : needStage st s = .error .illcmd :=
  if_neg (by omega)

theorem needLevel_ok (h : st.toNat < s.snap.levels) : needLevel st s = .ok st.toNat := if_pos h

theorem needLevel_error (h : s.snap.levels ≤ st.toNat) : needLevel st s = .error .illcmd := if_neg (by omega)

theorem needDistinct_ok (h : d ≠ a) : needDistinct d a = .ok () := if_neg h

theorem needDistinct_error (h : d = a) : needDistinct d a = .error .aliased := if_pos h

/-! ## Operand forms with good identifiers -/

section
variable {dq aq bq : Spectrum} {dp ap bp : Plane}

theorem operandsSP_ok (hd : spectrumOf d = some dq) (ha : planeOf a = some ap) (h : s.session ≠ .uninitialized) :
    operandsSP d a s = .ok (dq, ap) := by
  simp only [operandsSP, needSpectrum, needPlane, hd, ha, needSession_ok h]; rfl

theorem operandsSS_ok (hd : spectrumOf d = some dq) (ha : spectrumOf a = some aq) (h : s.session ≠ .uninitialized) :
    operandsSS d a s = .ok (dq, aq) := by
  simp only [operandsSS, needSpectrum, hd, ha, needSession_ok h]; rfl

theorem operandsPS_ok (hd : planeOf d = some dp) (ha : spectrumOf a = some aq) (h : s.session ≠ .uninitialized) :
    operandsPS d a s = .ok (dp, aq) := by
  simp only [operandsPS, needSpectrum, needPlane, hd, ha, needSession_ok h]; rfl

theorem operandsPP_ok (hd : planeOf d = some dp) (ha : planeOf a = some ap) (h : s.session ≠ .uninitialized) :
    operandsPP d a s = .ok (dp, ap) := by
  simp only [operandsPP, needPlane, hd, ha, needSession_ok h]; rfl

theorem operandsS_ok (hd : spectrumOf d = some dq) (h : s.session ≠ .uninitialized) : operandsS d s = .ok dq := by
  simp only [operandsS, needSpectrum, hd, needSession_ok h]; rfl

theorem operandsSSS_ok (hd : spectrumOf d = some dq) (ha : spectrumOf a = some aq) (hb : spectrumOf b = some bq)
    (h : s.session ≠ .uninitialized) : operandsSSS d a b s = .ok (dq, aq, bq) := by
  simp only [operandsSSS, needSpectrum, hd, ha, hb, needSession_ok h]; rfl

theorem operandsSSP_ok (hd : spectrumOf d = some dq) (ha : spectrumOf a = some aq) (hb : planeOf b = some bp)
    (h : s.session ≠ .uninitialized) : operandsSSP d a b s = .ok (dq, aq, bp) := by
  simp only [operandsSSP, needSpectrum, needPlane, hd, ha, hb, needSession_ok h]; rfl

theorem operandsGather_ok (hd : spectrumOf d = some dq) (ha : spectrumOf a = some aq) (h : s.session ≠ .uninitialized)
    (hne : d ≠ a) : operandsGather d a s = .ok (dq, aq) := by
  simp only [operandsGather, operandsSS_ok hd ha h, needDistinct_ok hne]; rfl

theorem operandsGather_alias (hd : spectrumOf d = some dq) (ha : spectrumOf a = some aq)
    (h : s.session ≠ .uninitialized) (he : d = a) : operandsGather d a s = .error .aliased := by
  simp only [operandsGather, operandsSS_ok hd ha h, needDistinct_error he]; rfl

theorem operandsStage_ok (hd : spectrumOf d = some dq) (ha : spectrumOf a = some aq) (h : s.session ≠ .uninitialized)
    (h1 : 1 ≤ st.toNat) (h2 : st.toNat ≤ s.logn.val) (hne : d ≠ a) :
    operandsStage d a st s = .ok (dq, aq, st.toNat) := by
  simp only [operandsStage, operandsSS_ok hd ha h, needStage_ok h1 h2, needDistinct_ok hne]; rfl

theorem operandsStage_stage (hd : spectrumOf d = some dq) (ha : spectrumOf a = some aq)
    (h : s.session ≠ .uninitialized) (hs : st.toNat = 0 ∨ s.logn.val < st.toNat) :
    operandsStage d a st s = .error .illcmd := by
  simp only [operandsStage, operandsSS_ok hd ha h, needStage_error hs]; rfl

theorem operandsStage_alias (hd : spectrumOf d = some dq) (ha : spectrumOf a = some aq)
    (h : s.session ≠ .uninitialized) (h1 : 1 ≤ st.toNat) (h2 : st.toNat ≤ s.logn.val) (he : d = a) :
    operandsStage d a st s = .error .aliased := by
  simp only [operandsStage, operandsSS_ok hd ha h, needStage_ok h1 h2, needDistinct_error he]; rfl

theorem operandsAmp_ok (hd : spectrumOf d = some dq) (ha : spectrumOf a = some aq) (hb : spectrumOf b = some bq)
    (h : s.session ≠ .uninitialized) (hne : d ≠ a) (hne' : d ≠ b) : operandsAmp d a b s = .ok (dq, aq, bq) := by
  simp only [operandsAmp, operandsSSS_ok hd ha hb h, needDistinct_ok hne, needDistinct_ok hne']; rfl

theorem operandsAmp_alias (hd : spectrumOf d = some dq) (ha : spectrumOf a = some aq) (hb : spectrumOf b = some bq)
    (h : s.session ≠ .uninitialized) (he : d = a ∨ d = b) : operandsAmp d a b s = .error .aliased := by
  by_cases h1 : d = a
  · simp only [operandsAmp, operandsSSS_ok hd ha hb h, needDistinct_error h1]; rfl
  · simp only [operandsAmp, operandsSSS_ok hd ha hb h, needDistinct_ok h1,
      needDistinct_error (he.resolve_left h1)]; rfl

theorem operandsLevel_ok (hd : planeOf d = some dp) (h : s.session ≠ .uninitialized) (hl : st.toNat < s.snap.levels) :
    operandsLevel d st s = .ok (dp, st.toNat) := by
  simp only [operandsLevel, needPlane, hd, needSession_ok h, needLevel_ok hl]; rfl

theorem operandsLevel_level (hd : planeOf d = some dp) (h : s.session ≠ .uninitialized)
    (hl : s.snap.levels ≤ st.toNat) : operandsLevel d st s = .error .illcmd := by
  simp only [operandsLevel, needPlane, hd, needSession_ok h, needLevel_error hl]; rfl

end

/-! ## Operand forms with bad identifiers, and without a session -/

theorem operandsSP_illcmd (h : ((spectrumOf d).isSome && (planeOf a).isSome) = false) :
    operandsSP d a s = .error .illcmd := by
  cases h0 : spectrumOf d <;>
  cases h1 : planeOf a <;>
    first
      | (simp only [operandsSP, needPlane, needSpectrum, h0, h1]; rfl)
      | simp [h0, h1] at h

theorem operandsSP_state (h : ((spectrumOf d).isSome && (planeOf a).isSome) = true)
    (hs : s.session = .uninitialized) :
    operandsSP d a s = .error .state := by
  cases h0 : spectrumOf d <;>
  cases h1 : planeOf a <;>
    first
      | (simp only [operandsSP, needPlane, needSpectrum, needSession_error hs, h0, h1]; rfl)
      | simp [h0, h1] at h

theorem operandsSS_illcmd (h : ((spectrumOf d).isSome && (spectrumOf a).isSome) = false) :
    operandsSS d a s = .error .illcmd := by
  cases h0 : spectrumOf d <;>
  cases h1 : spectrumOf a <;>
    first
      | (simp only [operandsSS, needSpectrum, h0, h1]; rfl)
      | simp [h0, h1] at h

theorem operandsSS_state (h : ((spectrumOf d).isSome && (spectrumOf a).isSome) = true)
    (hs : s.session = .uninitialized) :
    operandsSS d a s = .error .state := by
  cases h0 : spectrumOf d <;>
  cases h1 : spectrumOf a <;>
    first
      | (simp only [operandsSS, needSpectrum, needSession_error hs, h0, h1]; rfl)
      | simp [h0, h1] at h

theorem operandsPS_illcmd (h : ((planeOf d).isSome && (spectrumOf a).isSome) = false) :
    operandsPS d a s = .error .illcmd := by
  cases h0 : planeOf d <;>
  cases h1 : spectrumOf a <;>
    first
      | (simp only [operandsPS, needPlane, needSpectrum, h0, h1]; rfl)
      | simp [h0, h1] at h

theorem operandsPS_state (h : ((planeOf d).isSome && (spectrumOf a).isSome) = true)
    (hs : s.session = .uninitialized) :
    operandsPS d a s = .error .state := by
  cases h0 : planeOf d <;>
  cases h1 : spectrumOf a <;>
    first
      | (simp only [operandsPS, needPlane, needSpectrum, needSession_error hs, h0, h1]; rfl)
      | simp [h0, h1] at h

theorem operandsPP_illcmd (h : ((planeOf d).isSome && (planeOf a).isSome) = false) :
    operandsPP d a s = .error .illcmd := by
  cases h0 : planeOf d <;>
  cases h1 : planeOf a <;>
    first
      | (simp only [operandsPP, needPlane, h0, h1]; rfl)
      | simp [h0, h1] at h

theorem operandsPP_state (h : ((planeOf d).isSome && (planeOf a).isSome) = true)
    (hs : s.session = .uninitialized) :
    operandsPP d a s = .error .state := by
  cases h0 : planeOf d <;>
  cases h1 : planeOf a <;>
    first
      | (simp only [operandsPP, needPlane, needSession_error hs, h0, h1]; rfl)
      | simp [h0, h1] at h

theorem operandsS_illcmd (h : ((spectrumOf d).isSome) = false) :
    operandsS d s = .error .illcmd := by
  cases h0 : spectrumOf d <;>
    first
      | (simp only [operandsS, needSpectrum, h0]; rfl)
      | simp [h0] at h

theorem operandsS_state (h : ((spectrumOf d).isSome) = true)
    (hs : s.session = .uninitialized) :
    operandsS d s = .error .state := by
  cases h0 : spectrumOf d <;>
    first
      | (simp only [operandsS, needSpectrum, needSession_error hs, h0]; rfl)
      | simp [h0] at h

theorem operandsSSS_illcmd (h : ((spectrumOf d).isSome && (spectrumOf a).isSome && (spectrumOf b).isSome) = false) :
    operandsSSS d a b s = .error .illcmd := by
  cases h0 : spectrumOf d <;>
  cases h1 : spectrumOf a <;>
  cases h2 : spectrumOf b <;>
    first
      | (simp only [operandsSSS, needSpectrum, h0, h1, h2]; rfl)
      | simp [h0, h1, h2] at h

theorem operandsSSS_state (h : ((spectrumOf d).isSome && (spectrumOf a).isSome && (spectrumOf b).isSome) = true)
    (hs : s.session = .uninitialized) :
    operandsSSS d a b s = .error .state := by
  cases h0 : spectrumOf d <;>
  cases h1 : spectrumOf a <;>
  cases h2 : spectrumOf b <;>
    first
      | (simp only [operandsSSS, needSpectrum, needSession_error hs, h0, h1, h2]; rfl)
      | simp [h0, h1, h2] at h

theorem operandsSSP_illcmd (h : ((spectrumOf d).isSome && (spectrumOf a).isSome && (planeOf b).isSome) = false) :
    operandsSSP d a b s = .error .illcmd := by
  cases h0 : spectrumOf d <;>
  cases h1 : spectrumOf a <;>
  cases h2 : planeOf b <;>
    first
      | (simp only [operandsSSP, needPlane, needSpectrum, h0, h1, h2]; rfl)
      | simp [h0, h1, h2] at h

theorem operandsSSP_state (h : ((spectrumOf d).isSome && (spectrumOf a).isSome && (planeOf b).isSome) = true)
    (hs : s.session = .uninitialized) :
    operandsSSP d a b s = .error .state := by
  cases h0 : spectrumOf d <;>
  cases h1 : spectrumOf a <;>
  cases h2 : planeOf b <;>
    first
      | (simp only [operandsSSP, needPlane, needSpectrum, needSession_error hs, h0, h1, h2]; rfl)
      | simp [h0, h1, h2] at h

theorem operandsGather_illcmd (h : ((spectrumOf d).isSome && (spectrumOf a).isSome) = false) :
    operandsGather d a s = .error .illcmd := by
  simp only [operandsGather, operandsSS_illcmd h]; rfl

theorem operandsGather_state (h : ((spectrumOf d).isSome && (spectrumOf a).isSome) = true)
    (hs : s.session = .uninitialized) :
    operandsGather d a s = .error .state := by
  simp only [operandsGather, operandsSS_state h hs]; rfl

theorem operandsStage_illcmd (h : ((spectrumOf d).isSome && (spectrumOf a).isSome) = false) :
    operandsStage d a st s = .error .illcmd := by
  simp only [operandsStage, operandsSS_illcmd h]; rfl

theorem operandsStage_state (h : ((spectrumOf d).isSome && (spectrumOf a).isSome) = true)
    (hs : s.session = .uninitialized) :
    operandsStage d a st s = .error .state := by
  simp only [operandsStage, operandsSS_state h hs]; rfl

theorem operandsAmp_illcmd (h : ((spectrumOf d).isSome && (spectrumOf a).isSome && (spectrumOf b).isSome) = false) :
    operandsAmp d a b s = .error .illcmd := by
  simp only [operandsAmp, operandsSSS_illcmd h]; rfl

theorem operandsAmp_state (h : ((spectrumOf d).isSome && (spectrumOf a).isSome && (spectrumOf b).isSome) = true)
    (hs : s.session = .uninitialized) :
    operandsAmp d a b s = .error .state := by
  simp only [operandsAmp, operandsSSS_state h hs]; rfl

theorem operandsLevel_illcmd (h : (planeOf d).isSome = false) : operandsLevel d st s = .error .illcmd := by
  cases h0 : planeOf d <;>
    first
      | (simp only [operandsLevel, needPlane, h0]; rfl)
      | simp [h0] at h

theorem operandsLevel_state (h : (planeOf d).isSome = true)
    (hs : s.session = .uninitialized) :
    operandsLevel d st s = .error .state := by
  cases h0 : planeOf d <;>
    first
      | (simp only [operandsLevel, needPlane, needSession_error hs, h0]; rfl)
      | simp [h0] at h

end Machine

end Sys2Proof
end

