-- ==== Sys2Proof/Laws/State.lean ====
section
/-! SUPPORT. One lemma per field per state update of Machine/Flags.lean and Machine/Ops.lean, each true by `rfl`, so
that no proof unfolds a record update. -/

namespace Sys2Proof.Machine

variable {α ω : Type} (s : State α ω)

/-! ## `State.logError` -/

@[simp] theorem State.logError_session (e : Nat) : (State.logError e s).session = s.session := rfl
@[simp] theorem State.logError_busy (e : Nat) : (State.logError e s).busy = s.busy := rfl
@[simp] theorem State.logError_cur (e : Nat) : (State.logError e s).cur = s.cur := rfl
@[simp] theorem State.logError_snap (e : Nat) : (State.logError e s).snap = s.snap := rfl
@[simp] theorem State.logError_ustep (e : Nat) : (State.logError e s).ustep = s.ustep := rfl
@[simp] theorem State.logError_logn (e : Nat) : (State.logError e s).logn = s.logn := rfl
@[simp] theorem State.logError_pp (e : Nat) : (State.logError e s).pp = s.pp := rfl
@[simp] theorem State.logError_fbValid (e : Nat) : (State.logError e s).fbValid = s.fbValid := rfl
@[simp] theorem State.logError_fbKey (e : Nat) : (State.logError e s).fbKey = s.fbKey := rfl
@[simp] theorem State.logError_lastErr (e : Nat) : (State.logError e s).lastErr = s.lastErr := rfl
@[simp] theorem State.logError_errLog (e : Nat) : (State.logError e s).errLog = s.errLog ||| BitVec.ofNat 32 (2 ^ e) := rfl
@[simp] theorem State.logError_regs (e : Nat) : (State.logError e s).regs = s.regs := rfl
@[simp] theorem State.logError_planes (e : Nat) : (State.logError e s).planes = s.planes := rfl
@[simp] theorem State.logError_spectra (e : Nat) : (State.logError e s).spectra = s.spectra := rfl
@[simp] theorem State.logError_brt (e : Nat) : (State.logError e s).brt = s.brt := rfl
@[simp] theorem State.logError_twt (e : Nat) : (State.logError e s).twt = s.twt := rfl
@[simp] theorem State.logError_rdata (e : Nat) : (State.logError e s).rdata = s.rdata := rfl
@[simp] theorem State.logError_agenda (e : Nat) : (State.logError e s).agenda = s.agenda := rfl
@[simp] theorem State.logError_resOk (e : Nat) : (State.logError e s).resOk = s.resOk := rfl
@[simp] theorem State.logError_resDraw (e : Nat) : (State.logError e s).resDraw = s.resDraw := rfl
@[simp] theorem State.logError_epoch (e : Nat) : (State.logError e s).epoch = s.epoch := rfl
@[simp] theorem State.logError_draws (e : Nat) : (State.logError e s).draws = s.draws := rfl

/-! ## `State.dispatchP` -/

@[simp] theorem State.dispatchP_session (d : Plane) (lane : Nat → Nat → α) : (State.dispatchP d lane s).session = s.session := rfl
@[simp] theorem State.dispatchP_busy (d : Plane) (lane : Nat → Nat → α) : (State.dispatchP d lane s).busy = s.busy := rfl
@[simp] theorem State.dispatchP_cur (d : Plane) (lane : Nat → Nat → α) : (State.dispatchP d lane s).cur = s.cur := rfl
@[simp] theorem State.dispatchP_snap (d : Plane) (lane : Nat → Nat → α) : (State.dispatchP d lane s).snap = s.snap := rfl
@[simp] theorem State.dispatchP_ustep (d : Plane) (lane : Nat → Nat → α) : (State.dispatchP d lane s).ustep = s.ustep + 1 := rfl
@[simp] theorem State.dispatchP_logn (d : Plane) (lane : Nat → Nat → α) : (State.dispatchP d lane s).logn = s.logn := rfl
@[simp] theorem State.dispatchP_pp (d : Plane) (lane : Nat → Nat → α) : (State.dispatchP d lane s).pp = s.pp := rfl
@[simp] theorem State.dispatchP_fbValid (d : Plane) (lane : Nat → Nat → α) : (State.dispatchP d lane s).fbValid = s.fbValid := rfl
@[simp] theorem State.dispatchP_fbKey (d : Plane) (lane : Nat → Nat → α) : (State.dispatchP d lane s).fbKey = s.fbKey := rfl
@[simp] theorem State.dispatchP_lastErr (d : Plane) (lane : Nat → Nat → α) : (State.dispatchP d lane s).lastErr = s.lastErr := rfl
@[simp] theorem State.dispatchP_errLog (d : Plane) (lane : Nat → Nat → α) : (State.dispatchP d lane s).errLog = s.errLog := rfl
@[simp] theorem State.dispatchP_regs (d : Plane) (lane : Nat → Nat → α) : (State.dispatchP d lane s).regs = s.regs := rfl
@[simp] theorem State.dispatchP_planes (d : Plane) (lane : Nat → Nat → α) : (State.dispatchP d lane s).planes = s.planes.fill (elemAddr d.code 0) (s.n * s.n) (fun i => lane (i % s.n) (i / s.n)) := rfl
@[simp] theorem State.dispatchP_spectra (d : Plane) (lane : Nat → Nat → α) : (State.dispatchP d lane s).spectra = s.spectra := rfl
@[simp] theorem State.dispatchP_brt (d : Plane) (lane : Nat → Nat → α) : (State.dispatchP d lane s).brt = s.brt := rfl
@[simp] theorem State.dispatchP_twt (d : Plane) (lane : Nat → Nat → α) : (State.dispatchP d lane s).twt = s.twt := rfl
@[simp] theorem State.dispatchP_rdata (d : Plane) (lane : Nat → Nat → α) : (State.dispatchP d lane s).rdata = s.rdata := rfl
@[simp] theorem State.dispatchP_agenda (d : Plane) (lane : Nat → Nat → α) : (State.dispatchP d lane s).agenda = s.agenda := rfl
@[simp] theorem State.dispatchP_resOk (d : Plane) (lane : Nat → Nat → α) : (State.dispatchP d lane s).resOk = s.resOk := rfl
@[simp] theorem State.dispatchP_resDraw (d : Plane) (lane : Nat → Nat → α) : (State.dispatchP d lane s).resDraw = s.resDraw := rfl
@[simp] theorem State.dispatchP_epoch (d : Plane) (lane : Nat → Nat → α) : (State.dispatchP d lane s).epoch = s.epoch := rfl
@[simp] theorem State.dispatchP_draws (d : Plane) (lane : Nat → Nat → α) : (State.dispatchP d lane s).draws = s.draws := rfl

/-! ## `State.dispatchS` -/

@[simp] theorem State.dispatchS_session (d : Spectrum) (lane : Nat → Nat → Cplx α) : (State.dispatchS d lane s).session = s.session := rfl
@[simp] theorem State.dispatchS_busy (d : Spectrum) (lane : Nat → Nat → Cplx α) : (State.dispatchS d lane s).busy = s.busy := rfl
@[simp] theorem State.dispatchS_cur (d : Spectrum) (lane : Nat → Nat → Cplx α) : (State.dispatchS d lane s).cur = s.cur := rfl
@[simp] theorem State.dispatchS_snap (d : Spectrum) (lane : Nat → Nat → Cplx α) : (State.dispatchS d lane s).snap = s.snap := rfl
@[simp] theorem State.dispatchS_ustep (d : Spectrum) (lane : Nat → Nat → Cplx α) : (State.dispatchS d lane s).ustep = s.ustep + 1 := rfl
@[simp] theorem State.dispatchS_logn (d : Spectrum) (lane : Nat → Nat → Cplx α) : (State.dispatchS d lane s).logn = s.logn := rfl
@[simp] theorem State.dispatchS_pp (d : Spectrum) (lane : Nat → Nat → Cplx α) : (State.dispatchS d lane s).pp = s.pp := rfl
@[simp] theorem State.dispatchS_fbValid (d : Spectrum) (lane : Nat → Nat → Cplx α) : (State.dispatchS d lane s).fbValid = s.fbValid := rfl
@[simp] theorem State.dispatchS_fbKey (d : Spectrum) (lane : Nat → Nat → Cplx α) : (State.dispatchS d lane s).fbKey = s.fbKey := rfl
@[simp] theorem State.dispatchS_lastErr (d : Spectrum) (lane : Nat → Nat → Cplx α) : (State.dispatchS d lane s).lastErr = s.lastErr := rfl
@[simp] theorem State.dispatchS_errLog (d : Spectrum) (lane : Nat → Nat → Cplx α) : (State.dispatchS d lane s).errLog = s.errLog := rfl
@[simp] theorem State.dispatchS_regs (d : Spectrum) (lane : Nat → Nat → Cplx α) : (State.dispatchS d lane s).regs = s.regs := rfl
@[simp] theorem State.dispatchS_planes (d : Spectrum) (lane : Nat → Nat → Cplx α) : (State.dispatchS d lane s).planes = s.planes := rfl
@[simp] theorem State.dispatchS_spectra (d : Spectrum) (lane : Nat → Nat → Cplx α) : (State.dispatchS d lane s).spectra = s.spectra.fill (elemAddr d.code 0) (s.n * s.n) (fun i => lane (i % s.n) (i / s.n)) := rfl
@[simp] theorem State.dispatchS_brt (d : Spectrum) (lane : Nat → Nat → Cplx α) : (State.dispatchS d lane s).brt = s.brt := rfl
@[simp] theorem State.dispatchS_twt (d : Spectrum) (lane : Nat → Nat → Cplx α) : (State.dispatchS d lane s).twt = s.twt := rfl
@[simp] theorem State.dispatchS_rdata (d : Spectrum) (lane : Nat → Nat → Cplx α) : (State.dispatchS d lane s).rdata = s.rdata := rfl
@[simp] theorem State.dispatchS_agenda (d : Spectrum) (lane : Nat → Nat → Cplx α) : (State.dispatchS d lane s).agenda = s.agenda := rfl
@[simp] theorem State.dispatchS_resOk (d : Spectrum) (lane : Nat → Nat → Cplx α) : (State.dispatchS d lane s).resOk = s.resOk := rfl
@[simp] theorem State.dispatchS_resDraw (d : Spectrum) (lane : Nat → Nat → Cplx α) : (State.dispatchS d lane s).resDraw = s.resDraw := rfl
@[simp] theorem State.dispatchS_epoch (d : Spectrum) (lane : Nat → Nat → Cplx α) : (State.dispatchS d lane s).epoch = s.epoch := rfl
@[simp] theorem State.dispatchS_draws (d : Spectrum) (lane : Nat → Nat → Cplx α) : (State.dispatchS d lane s).draws = s.draws := rfl

/-! ## `State.dispatchBrt` -/

@[simp] theorem State.dispatchBrt_session (entry : Nat → Nat) : (State.dispatchBrt entry s).session = s.session := rfl
@[simp] theorem State.dispatchBrt_busy (entry : Nat → Nat) : (State.dispatchBrt entry s).busy = s.busy := rfl
@[simp] theorem State.dispatchBrt_cur (entry : Nat → Nat) : (State.dispatchBrt entry s).cur = s.cur := rfl
@[simp] theorem State.dispatchBrt_snap (entry : Nat → Nat) : (State.dispatchBrt entry s).snap = s.snap := rfl
@[simp] theorem State.dispatchBrt_ustep (entry : Nat → Nat) : (State.dispatchBrt entry s).ustep = s.ustep + 1 := rfl
@[simp] theorem State.dispatchBrt_logn (entry : Nat → Nat) : (State.dispatchBrt entry s).logn = s.logn := rfl
@[simp] theorem State.dispatchBrt_pp (entry : Nat → Nat) : (State.dispatchBrt entry s).pp = s.pp := rfl
@[simp] theorem State.dispatchBrt_fbValid (entry : Nat → Nat) : (State.dispatchBrt entry s).fbValid = s.fbValid := rfl
@[simp] theorem State.dispatchBrt_fbKey (entry : Nat → Nat) : (State.dispatchBrt entry s).fbKey = s.fbKey := rfl
@[simp] theorem State.dispatchBrt_lastErr (entry : Nat → Nat) : (State.dispatchBrt entry s).lastErr = s.lastErr := rfl
@[simp] theorem State.dispatchBrt_errLog (entry : Nat → Nat) : (State.dispatchBrt entry s).errLog = s.errLog := rfl
@[simp] theorem State.dispatchBrt_regs (entry : Nat → Nat) : (State.dispatchBrt entry s).regs = s.regs := rfl
@[simp] theorem State.dispatchBrt_planes (entry : Nat → Nat) : (State.dispatchBrt entry s).planes = s.planes := rfl
@[simp] theorem State.dispatchBrt_spectra (entry : Nat → Nat) : (State.dispatchBrt entry s).spectra = s.spectra := rfl
@[simp] theorem State.dispatchBrt_brt (entry : Nat → Nat) : (State.dispatchBrt entry s).brt = s.brt.fill 0 s.n entry := rfl
@[simp] theorem State.dispatchBrt_twt (entry : Nat → Nat) : (State.dispatchBrt entry s).twt = s.twt := rfl
@[simp] theorem State.dispatchBrt_rdata (entry : Nat → Nat) : (State.dispatchBrt entry s).rdata = s.rdata := rfl
@[simp] theorem State.dispatchBrt_agenda (entry : Nat → Nat) : (State.dispatchBrt entry s).agenda = s.agenda := rfl
@[simp] theorem State.dispatchBrt_resOk (entry : Nat → Nat) : (State.dispatchBrt entry s).resOk = s.resOk := rfl
@[simp] theorem State.dispatchBrt_resDraw (entry : Nat → Nat) : (State.dispatchBrt entry s).resDraw = s.resDraw := rfl
@[simp] theorem State.dispatchBrt_epoch (entry : Nat → Nat) : (State.dispatchBrt entry s).epoch = s.epoch := rfl
@[simp] theorem State.dispatchBrt_draws (entry : Nat → Nat) : (State.dispatchBrt entry s).draws = s.draws := rfl

/-! ## `State.dispatchTwt` -/

@[simp] theorem State.dispatchTwt_session (entry : Nat → Cplx α) : (State.dispatchTwt entry s).session = s.session := rfl
@[simp] theorem State.dispatchTwt_busy (entry : Nat → Cplx α) : (State.dispatchTwt entry s).busy = s.busy := rfl
@[simp] theorem State.dispatchTwt_cur (entry : Nat → Cplx α) : (State.dispatchTwt entry s).cur = s.cur := rfl
@[simp] theorem State.dispatchTwt_snap (entry : Nat → Cplx α) : (State.dispatchTwt entry s).snap = s.snap := rfl
@[simp] theorem State.dispatchTwt_ustep (entry : Nat → Cplx α) : (State.dispatchTwt entry s).ustep = s.ustep + 1 := rfl
@[simp] theorem State.dispatchTwt_logn (entry : Nat → Cplx α) : (State.dispatchTwt entry s).logn = s.logn := rfl
@[simp] theorem State.dispatchTwt_pp (entry : Nat → Cplx α) : (State.dispatchTwt entry s).pp = s.pp := rfl
@[simp] theorem State.dispatchTwt_fbValid (entry : Nat → Cplx α) : (State.dispatchTwt entry s).fbValid = s.fbValid := rfl
@[simp] theorem State.dispatchTwt_fbKey (entry : Nat → Cplx α) : (State.dispatchTwt entry s).fbKey = s.fbKey := rfl
@[simp] theorem State.dispatchTwt_lastErr (entry : Nat → Cplx α) : (State.dispatchTwt entry s).lastErr = s.lastErr := rfl
@[simp] theorem State.dispatchTwt_errLog (entry : Nat → Cplx α) : (State.dispatchTwt entry s).errLog = s.errLog := rfl
@[simp] theorem State.dispatchTwt_regs (entry : Nat → Cplx α) : (State.dispatchTwt entry s).regs = s.regs := rfl
@[simp] theorem State.dispatchTwt_planes (entry : Nat → Cplx α) : (State.dispatchTwt entry s).planes = s.planes := rfl
@[simp] theorem State.dispatchTwt_spectra (entry : Nat → Cplx α) : (State.dispatchTwt entry s).spectra = s.spectra := rfl
@[simp] theorem State.dispatchTwt_brt (entry : Nat → Cplx α) : (State.dispatchTwt entry s).brt = s.brt := rfl
@[simp] theorem State.dispatchTwt_twt (entry : Nat → Cplx α) : (State.dispatchTwt entry s).twt = s.twt.fill 0 (s.n / 2) entry := rfl
@[simp] theorem State.dispatchTwt_rdata (entry : Nat → Cplx α) : (State.dispatchTwt entry s).rdata = s.rdata := rfl
@[simp] theorem State.dispatchTwt_agenda (entry : Nat → Cplx α) : (State.dispatchTwt entry s).agenda = s.agenda := rfl
@[simp] theorem State.dispatchTwt_resOk (entry : Nat → Cplx α) : (State.dispatchTwt entry s).resOk = s.resOk := rfl
@[simp] theorem State.dispatchTwt_resDraw (entry : Nat → Cplx α) : (State.dispatchTwt entry s).resDraw = s.resDraw := rfl
@[simp] theorem State.dispatchTwt_epoch (entry : Nat → Cplx α) : (State.dispatchTwt entry s).epoch = s.epoch := rfl
@[simp] theorem State.dispatchTwt_draws (entry : Nat → Cplx α) : (State.dispatchTwt entry s).draws = s.draws := rfl

/-! ## `State.writePlane` -/

@[simp] theorem State.writePlane_session (p : Plane) (idx : Nat) (v : α) : (State.writePlane p idx v s).session = s.session := rfl
@[simp] theorem State.writePlane_busy (p : Plane) (idx : Nat) (v : α) : (State.writePlane p idx v s).busy = s.busy := rfl
@[simp] theorem State.writePlane_cur (p : Plane) (idx : Nat) (v : α) : (State.writePlane p idx v s).cur = s.cur := rfl
@[simp] theorem State.writePlane_snap (p : Plane) (idx : Nat) (v : α) : (State.writePlane p idx v s).snap = s.snap := rfl
@[simp] theorem State.writePlane_ustep (p : Plane) (idx : Nat) (v : α) : (State.writePlane p idx v s).ustep = s.ustep := rfl
@[simp] theorem State.writePlane_logn (p : Plane) (idx : Nat) (v : α) : (State.writePlane p idx v s).logn = s.logn := rfl
@[simp] theorem State.writePlane_pp (p : Plane) (idx : Nat) (v : α) : (State.writePlane p idx v s).pp = s.pp := rfl
@[simp] theorem State.writePlane_fbValid (p : Plane) (idx : Nat) (v : α) : (State.writePlane p idx v s).fbValid = s.fbValid := rfl
@[simp] theorem State.writePlane_fbKey (p : Plane) (idx : Nat) (v : α) : (State.writePlane p idx v s).fbKey = s.fbKey := rfl
@[simp] theorem State.writePlane_lastErr (p : Plane) (idx : Nat) (v : α) : (State.writePlane p idx v s).lastErr = s.lastErr := rfl
@[simp] theorem State.writePlane_errLog (p : Plane) (idx : Nat) (v : α) : (State.writePlane p idx v s).errLog = s.errLog := rfl
@[simp] theorem State.writePlane_regs (p : Plane) (idx : Nat) (v : α) : (State.writePlane p idx v s).regs = s.regs := rfl
@[simp] theorem State.writePlane_planes (p : Plane) (idx : Nat) (v : α) : (State.writePlane p idx v s).planes = s.planes.set (elemAddr p.code idx) v := rfl
@[simp] theorem State.writePlane_spectra (p : Plane) (idx : Nat) (v : α) : (State.writePlane p idx v s).spectra = s.spectra := rfl
@[simp] theorem State.writePlane_brt (p : Plane) (idx : Nat) (v : α) : (State.writePlane p idx v s).brt = s.brt := rfl
@[simp] theorem State.writePlane_twt (p : Plane) (idx : Nat) (v : α) : (State.writePlane p idx v s).twt = s.twt := rfl
@[simp] theorem State.writePlane_rdata (p : Plane) (idx : Nat) (v : α) : (State.writePlane p idx v s).rdata = s.rdata := rfl
@[simp] theorem State.writePlane_agenda (p : Plane) (idx : Nat) (v : α) : (State.writePlane p idx v s).agenda = s.agenda := rfl
@[simp] theorem State.writePlane_resOk (p : Plane) (idx : Nat) (v : α) : (State.writePlane p idx v s).resOk = s.resOk := rfl
@[simp] theorem State.writePlane_resDraw (p : Plane) (idx : Nat) (v : α) : (State.writePlane p idx v s).resDraw = s.resDraw := rfl
@[simp] theorem State.writePlane_epoch (p : Plane) (idx : Nat) (v : α) : (State.writePlane p idx v s).epoch = s.epoch := rfl
@[simp] theorem State.writePlane_draws (p : Plane) (idx : Nat) (v : α) : (State.writePlane p idx v s).draws = s.draws := rfl

/-! ## `State.writeSpec` -/

@[simp] theorem State.writeSpec_session (q : Spectrum) (idx : Nat) (z : Cplx α) : (State.writeSpec q idx z s).session = s.session := rfl
@[simp] theorem State.writeSpec_busy (q : Spectrum) (idx : Nat) (z : Cplx α) : (State.writeSpec q idx z s).busy = s.busy := rfl
@[simp] theorem State.writeSpec_cur (q : Spectrum) (idx : Nat) (z : Cplx α) : (State.writeSpec q idx z s).cur = s.cur := rfl
@[simp] theorem State.writeSpec_snap (q : Spectrum) (idx : Nat) (z : Cplx α) : (State.writeSpec q idx z s).snap = s.snap := rfl
@[simp] theorem State.writeSpec_ustep (q : Spectrum) (idx : Nat) (z : Cplx α) : (State.writeSpec q idx z s).ustep = s.ustep := rfl
@[simp] theorem State.writeSpec_logn (q : Spectrum) (idx : Nat) (z : Cplx α) : (State.writeSpec q idx z s).logn = s.logn := rfl
@[simp] theorem State.writeSpec_pp (q : Spectrum) (idx : Nat) (z : Cplx α) : (State.writeSpec q idx z s).pp = s.pp := rfl
@[simp] theorem State.writeSpec_fbValid (q : Spectrum) (idx : Nat) (z : Cplx α) : (State.writeSpec q idx z s).fbValid = s.fbValid := rfl
@[simp] theorem State.writeSpec_fbKey (q : Spectrum) (idx : Nat) (z : Cplx α) : (State.writeSpec q idx z s).fbKey = s.fbKey := rfl
@[simp] theorem State.writeSpec_lastErr (q : Spectrum) (idx : Nat) (z : Cplx α) : (State.writeSpec q idx z s).lastErr = s.lastErr := rfl
@[simp] theorem State.writeSpec_errLog (q : Spectrum) (idx : Nat) (z : Cplx α) : (State.writeSpec q idx z s).errLog = s.errLog := rfl
@[simp] theorem State.writeSpec_regs (q : Spectrum) (idx : Nat) (z : Cplx α) : (State.writeSpec q idx z s).regs = s.regs := rfl
@[simp] theorem State.writeSpec_planes (q : Spectrum) (idx : Nat) (z : Cplx α) : (State.writeSpec q idx z s).planes = s.planes := rfl
@[simp] theorem State.writeSpec_spectra (q : Spectrum) (idx : Nat) (z : Cplx α) : (State.writeSpec q idx z s).spectra = s.spectra.set (elemAddr q.code idx) z := rfl
@[simp] theorem State.writeSpec_brt (q : Spectrum) (idx : Nat) (z : Cplx α) : (State.writeSpec q idx z s).brt = s.brt := rfl
@[simp] theorem State.writeSpec_twt (q : Spectrum) (idx : Nat) (z : Cplx α) : (State.writeSpec q idx z s).twt = s.twt := rfl
@[simp] theorem State.writeSpec_rdata (q : Spectrum) (idx : Nat) (z : Cplx α) : (State.writeSpec q idx z s).rdata = s.rdata := rfl
@[simp] theorem State.writeSpec_agenda (q : Spectrum) (idx : Nat) (z : Cplx α) : (State.writeSpec q idx z s).agenda = s.agenda := rfl
@[simp] theorem State.writeSpec_resOk (q : Spectrum) (idx : Nat) (z : Cplx α) : (State.writeSpec q idx z s).resOk = s.resOk := rfl
@[simp] theorem State.writeSpec_resDraw (q : Spectrum) (idx : Nat) (z : Cplx α) : (State.writeSpec q idx z s).resDraw = s.resDraw := rfl
@[simp] theorem State.writeSpec_epoch (q : Spectrum) (idx : Nat) (z : Cplx α) : (State.writeSpec q idx z s).epoch = s.epoch := rfl
@[simp] theorem State.writeSpec_draws (q : Spectrum) (idx : Nat) (z : Cplx α) : (State.writeSpec q idx z s).draws = s.draws := rfl

/-! ## `State.complete` -/

@[simp] theorem State.complete_session : (State.complete s).session = s.session := rfl
@[simp] theorem State.complete_busy : (State.complete s).busy = false := rfl
@[simp] theorem State.complete_cur : (State.complete s).cur = s.cur := rfl
@[simp] theorem State.complete_snap : (State.complete s).snap = s.snap := rfl
@[simp] theorem State.complete_ustep : (State.complete s).ustep = s.ustep := rfl
@[simp] theorem State.complete_logn : (State.complete s).logn = s.logn := rfl
@[simp] theorem State.complete_pp : (State.complete s).pp = s.pp := rfl
@[simp] theorem State.complete_fbValid : (State.complete s).fbValid = s.fbValid := rfl
@[simp] theorem State.complete_fbKey : (State.complete s).fbKey = s.fbKey := rfl
@[simp] theorem State.complete_lastErr : (State.complete s).lastErr = s.lastErr := rfl
@[simp] theorem State.complete_errLog : (State.complete s).errLog = s.errLog := rfl
@[simp] theorem State.complete_regs : (State.complete s).regs = s.regs := rfl
@[simp] theorem State.complete_planes : (State.complete s).planes = s.planes := rfl
@[simp] theorem State.complete_spectra : (State.complete s).spectra = s.spectra := rfl
@[simp] theorem State.complete_brt : (State.complete s).brt = s.brt := rfl
@[simp] theorem State.complete_twt : (State.complete s).twt = s.twt := rfl
@[simp] theorem State.complete_rdata : (State.complete s).rdata = s.rdata := rfl
@[simp] theorem State.complete_agenda : (State.complete s).agenda = s.agenda := rfl
@[simp] theorem State.complete_resOk : (State.complete s).resOk = s.resOk := rfl
@[simp] theorem State.complete_resDraw : (State.complete s).resDraw = s.resDraw := rfl
@[simp] theorem State.complete_epoch : (State.complete s).epoch = s.epoch := rfl
@[simp] theorem State.complete_draws : (State.complete s).draws = s.draws := rfl

/-! ## `State.abandon` -/

@[simp] theorem State.abandon_session (e : CmdError) : (State.abandon e s).session = s.session := rfl
@[simp] theorem State.abandon_busy (e : CmdError) : (State.abandon e s).busy = false := rfl
@[simp] theorem State.abandon_cur (e : CmdError) : (State.abandon e s).cur = s.cur := rfl
@[simp] theorem State.abandon_snap (e : CmdError) : (State.abandon e s).snap = s.snap := rfl
@[simp] theorem State.abandon_ustep (e : CmdError) : (State.abandon e s).ustep = s.ustep := rfl
@[simp] theorem State.abandon_logn (e : CmdError) : (State.abandon e s).logn = s.logn := rfl
@[simp] theorem State.abandon_pp (e : CmdError) : (State.abandon e s).pp = s.pp := rfl
@[simp] theorem State.abandon_fbValid (e : CmdError) : (State.abandon e s).fbValid = s.fbValid := rfl
@[simp] theorem State.abandon_fbKey (e : CmdError) : (State.abandon e s).fbKey = s.fbKey := rfl
@[simp] theorem State.abandon_lastErr (e : CmdError) : (State.abandon e s).lastErr = BitVec.ofNat 4 e.code := rfl
@[simp] theorem State.abandon_errLog (e : CmdError) : (State.abandon e s).errLog = s.errLog ||| BitVec.ofNat 32 (2 ^ e.code) := rfl
@[simp] theorem State.abandon_regs (e : CmdError) : (State.abandon e s).regs = s.regs := rfl
@[simp] theorem State.abandon_planes (e : CmdError) : (State.abandon e s).planes = s.planes := rfl
@[simp] theorem State.abandon_spectra (e : CmdError) : (State.abandon e s).spectra = s.spectra := rfl
@[simp] theorem State.abandon_brt (e : CmdError) : (State.abandon e s).brt = s.brt := rfl
@[simp] theorem State.abandon_twt (e : CmdError) : (State.abandon e s).twt = s.twt := rfl
@[simp] theorem State.abandon_rdata (e : CmdError) : (State.abandon e s).rdata = s.rdata := rfl
@[simp] theorem State.abandon_agenda (e : CmdError) : (State.abandon e s).agenda = s.agenda := rfl
@[simp] theorem State.abandon_resOk (e : CmdError) : (State.abandon e s).resOk = s.resOk := rfl
@[simp] theorem State.abandon_resDraw (e : CmdError) : (State.abandon e s).resDraw = s.resDraw := rfl
@[simp] theorem State.abandon_epoch (e : CmdError) : (State.abandon e s).epoch = s.epoch := rfl
@[simp] theorem State.abandon_draws (e : CmdError) : (State.abandon e s).draws = s.draws := rfl

/-! ## `State.accept` -/

@[simp] theorem State.accept_session (M : NumSystem α ω) (w : Word) : (State.accept M w s).session = s.session := rfl
@[simp] theorem State.accept_busy (M : NumSystem α ω) (w : Word) : (State.accept M w s).busy = true := rfl
@[simp] theorem State.accept_cur (M : NumSystem α ω) (w : Word) : (State.accept M w s).cur = w := rfl
@[simp] theorem State.accept_snap (M : NumSystem α ω) (w : Word) : (State.accept M w s).snap = s.effectiveNow M := rfl
@[simp] theorem State.accept_ustep (M : NumSystem α ω) (w : Word) : (State.accept M w s).ustep = 0 := rfl
@[simp] theorem State.accept_logn (M : NumSystem α ω) (w : Word) : (State.accept M w s).logn = s.logn := rfl
@[simp] theorem State.accept_pp (M : NumSystem α ω) (w : Word) : (State.accept M w s).pp = s.pp := rfl
@[simp] theorem State.accept_fbValid (M : NumSystem α ω) (w : Word) : (State.accept M w s).fbValid = s.fbValid := rfl
@[simp] theorem State.accept_fbKey (M : NumSystem α ω) (w : Word) : (State.accept M w s).fbKey = s.fbKey := rfl
@[simp] theorem State.accept_lastErr (M : NumSystem α ω) (w : Word) : (State.accept M w s).lastErr = 0 := rfl
@[simp] theorem State.accept_errLog (M : NumSystem α ω) (w : Word) : (State.accept M w s).errLog = s.errLog := rfl
@[simp] theorem State.accept_regs (M : NumSystem α ω) (w : Word) : (State.accept M w s).regs = s.regs := rfl
@[simp] theorem State.accept_planes (M : NumSystem α ω) (w : Word) : (State.accept M w s).planes = s.planes := rfl
@[simp] theorem State.accept_spectra (M : NumSystem α ω) (w : Word) : (State.accept M w s).spectra = s.spectra := rfl
@[simp] theorem State.accept_brt (M : NumSystem α ω) (w : Word) : (State.accept M w s).brt = s.brt := rfl
@[simp] theorem State.accept_twt (M : NumSystem α ω) (w : Word) : (State.accept M w s).twt = s.twt := rfl
@[simp] theorem State.accept_rdata (M : NumSystem α ω) (w : Word) : (State.accept M w s).rdata = s.rdata := rfl
@[simp] theorem State.accept_agenda (M : NumSystem α ω) (w : Word) : (State.accept M w s).agenda = s.agenda := rfl
@[simp] theorem State.accept_resOk (M : NumSystem α ω) (w : Word) : (State.accept M w s).resOk = s.resOk := rfl
@[simp] theorem State.accept_resDraw (M : NumSystem α ω) (w : Word) : (State.accept M w s).resDraw = s.resOk := rfl
@[simp] theorem State.accept_epoch (M : NumSystem α ω) (w : Word) : (State.accept M w s).epoch = s.epoch := rfl
@[simp] theorem State.accept_draws (M : NumSystem α ω) (w : Word) : (State.accept M w s).draws = s.draws := rfl

/-! ## `State.forget` -/

@[simp] theorem State.forget_session : (State.forget s).session = s.session := rfl
@[simp] theorem State.forget_busy : (State.forget s).busy = s.busy := rfl
@[simp] theorem State.forget_cur : (State.forget s).cur = s.cur := rfl
@[simp] theorem State.forget_snap : (State.forget s).snap = s.snap := rfl
@[simp] theorem State.forget_ustep : (State.forget s).ustep = s.ustep := rfl
@[simp] theorem State.forget_logn : (State.forget s).logn = s.logn := rfl
@[simp] theorem State.forget_pp : (State.forget s).pp = s.pp := rfl
@[simp] theorem State.forget_fbValid : (State.forget s).fbValid = s.fbValid := rfl
@[simp] theorem State.forget_fbKey : (State.forget s).fbKey = s.fbKey := rfl
@[simp] theorem State.forget_lastErr : (State.forget s).lastErr = s.lastErr := rfl
@[simp] theorem State.forget_errLog : (State.forget s).errLog = s.errLog := rfl
@[simp] theorem State.forget_regs : (State.forget s).regs = s.regs := rfl
@[simp] theorem State.forget_planes : (State.forget s).planes = [] := rfl
@[simp] theorem State.forget_spectra : (State.forget s).spectra = [] := rfl
@[simp] theorem State.forget_brt : (State.forget s).brt = [] := rfl
@[simp] theorem State.forget_twt : (State.forget s).twt = [] := rfl
@[simp] theorem State.forget_rdata : (State.forget s).rdata = s.rdata := rfl
@[simp] theorem State.forget_agenda : (State.forget s).agenda = s.agenda := rfl
@[simp] theorem State.forget_resOk : (State.forget s).resOk = s.resOk := rfl
@[simp] theorem State.forget_resDraw : (State.forget s).resDraw = s.resDraw := rfl
@[simp] theorem State.forget_epoch : (State.forget s).epoch = s.epoch + 1 := rfl
@[simp] theorem State.forget_draws : (State.forget s).draws = s.draws := rfl

/-! ## `State.undefineCanvas` -/

@[simp] theorem State.undefineCanvas_session : (State.undefineCanvas s).session = s.session := rfl
@[simp] theorem State.undefineCanvas_busy : (State.undefineCanvas s).busy = s.busy := rfl
@[simp] theorem State.undefineCanvas_cur : (State.undefineCanvas s).cur = s.cur := rfl
@[simp] theorem State.undefineCanvas_snap : (State.undefineCanvas s).snap = s.snap := rfl
@[simp] theorem State.undefineCanvas_ustep : (State.undefineCanvas s).ustep = s.ustep := rfl
@[simp] theorem State.undefineCanvas_logn : (State.undefineCanvas s).logn = Config.undefinedLogn s.draws := rfl
@[simp] theorem State.undefineCanvas_pp : (State.undefineCanvas s).pp = s.pp := rfl
@[simp] theorem State.undefineCanvas_fbValid : (State.undefineCanvas s).fbValid = s.fbValid := rfl
@[simp] theorem State.undefineCanvas_fbKey : (State.undefineCanvas s).fbKey = s.fbKey := rfl
@[simp] theorem State.undefineCanvas_lastErr : (State.undefineCanvas s).lastErr = s.lastErr := rfl
@[simp] theorem State.undefineCanvas_errLog : (State.undefineCanvas s).errLog = s.errLog := rfl
@[simp] theorem State.undefineCanvas_regs : (State.undefineCanvas s).regs = s.regs := rfl
@[simp] theorem State.undefineCanvas_planes : (State.undefineCanvas s).planes = s.planes := rfl
@[simp] theorem State.undefineCanvas_spectra : (State.undefineCanvas s).spectra = s.spectra := rfl
@[simp] theorem State.undefineCanvas_brt : (State.undefineCanvas s).brt = s.brt := rfl
@[simp] theorem State.undefineCanvas_twt : (State.undefineCanvas s).twt = s.twt := rfl
@[simp] theorem State.undefineCanvas_rdata : (State.undefineCanvas s).rdata = s.rdata := rfl
@[simp] theorem State.undefineCanvas_agenda : (State.undefineCanvas s).agenda = s.agenda := rfl
@[simp] theorem State.undefineCanvas_resOk : (State.undefineCanvas s).resOk = s.resOk := rfl
@[simp] theorem State.undefineCanvas_resDraw : (State.undefineCanvas s).resDraw = s.resDraw := rfl
@[simp] theorem State.undefineCanvas_epoch : (State.undefineCanvas s).epoch = s.epoch := rfl
@[simp] theorem State.undefineCanvas_draws : (State.undefineCanvas s).draws = s.draws + 1 := rfl

/-! ## `State.planeTouched` -/

@[simp] theorem State.planeTouched_session (d : Plane) : (State.planeTouched d s).session = s.session := by cases d <;> rfl
@[simp] theorem State.planeTouched_busy (d : Plane) : (State.planeTouched d s).busy = s.busy := by cases d <;> rfl
@[simp] theorem State.planeTouched_cur (d : Plane) : (State.planeTouched d s).cur = s.cur := by cases d <;> rfl
@[simp] theorem State.planeTouched_snap (d : Plane) : (State.planeTouched d s).snap = s.snap := by cases d <;> rfl
@[simp] theorem State.planeTouched_ustep (d : Plane) : (State.planeTouched d s).ustep = s.ustep := by cases d <;> rfl
@[simp] theorem State.planeTouched_logn (d : Plane) : (State.planeTouched d s).logn = s.logn := by cases d <;> rfl
@[simp] theorem State.planeTouched_pp (d : Plane) : (State.planeTouched d s).pp = s.pp := by cases d <;> rfl
@[simp] theorem State.planeTouched_fbKey (d : Plane) : (State.planeTouched d s).fbKey = s.fbKey := by cases d <;> rfl
@[simp] theorem State.planeTouched_lastErr (d : Plane) : (State.planeTouched d s).lastErr = s.lastErr := by cases d <;> rfl
@[simp] theorem State.planeTouched_errLog (d : Plane) : (State.planeTouched d s).errLog = s.errLog := by cases d <;> rfl
@[simp] theorem State.planeTouched_regs (d : Plane) : (State.planeTouched d s).regs = s.regs := by cases d <;> rfl
@[simp] theorem State.planeTouched_planes (d : Plane) : (State.planeTouched d s).planes = s.planes := by cases d <;> rfl
@[simp] theorem State.planeTouched_spectra (d : Plane) : (State.planeTouched d s).spectra = s.spectra := by cases d <;> rfl
@[simp] theorem State.planeTouched_brt (d : Plane) : (State.planeTouched d s).brt = s.brt := by cases d <;> rfl
@[simp] theorem State.planeTouched_twt (d : Plane) : (State.planeTouched d s).twt = s.twt := by cases d <;> rfl
@[simp] theorem State.planeTouched_rdata (d : Plane) : (State.planeTouched d s).rdata = s.rdata := by cases d <;> rfl
@[simp] theorem State.planeTouched_agenda (d : Plane) : (State.planeTouched d s).agenda = s.agenda := by cases d <;> rfl
@[simp] theorem State.planeTouched_resOk (d : Plane) : (State.planeTouched d s).resOk = s.resOk := by cases d <;> rfl
@[simp] theorem State.planeTouched_resDraw (d : Plane) : (State.planeTouched d s).resDraw = s.resDraw := by cases d <;> rfl
@[simp] theorem State.planeTouched_epoch (d : Plane) : (State.planeTouched d s).epoch = s.epoch := by cases d <;> rfl
@[simp] theorem State.planeTouched_draws (d : Plane) : (State.planeTouched d s).draws = s.draws := by cases d <;> rfl
@[simp] theorem State.planeTouched_mask_fbValid (i : Fin 32) :
    (State.planeTouched (.mask i) s).fbValid = false := rfl

theorem State.planeTouched_fbValid (d : Plane) (h : ∀ i, d ≠ .mask i) :
    (State.planeTouched d s).fbValid = s.fbValid := by
  cases d <;> first | rfl | exact absurd rfl (h _)

/-! ## What updates leave of the canvas size -/

@[simp] theorem State.logError_n (e : Nat) : (State.logError e s).n = s.n := rfl
@[simp] theorem State.dispatchP_n (d : Plane) (lane : Nat → Nat → α) : (State.dispatchP d lane s).n = s.n := rfl
@[simp] theorem State.dispatchS_n (d : Spectrum) (lane : Nat → Nat → Cplx α) : (State.dispatchS d lane s).n = s.n := rfl
@[simp] theorem State.dispatchBrt_n (entry : Nat → Nat) : (State.dispatchBrt entry s).n = s.n := rfl
@[simp] theorem State.dispatchTwt_n (entry : Nat → Cplx α) : (State.dispatchTwt entry s).n = s.n := rfl
@[simp] theorem State.writePlane_n (p : Plane) (idx : Nat) (v : α) : (State.writePlane p idx v s).n = s.n := rfl
@[simp] theorem State.writeSpec_n (q : Spectrum) (idx : Nat) (z : Cplx α) : (State.writeSpec q idx z s).n = s.n := rfl
@[simp] theorem State.complete_n : (State.complete s).n = s.n := rfl
@[simp] theorem State.abandon_n (e : CmdError) : (State.abandon e s).n = s.n := rfl
@[simp] theorem State.accept_n (M : NumSystem α ω) (w : Word) : (State.accept M w s).n = s.n := rfl
@[simp] theorem State.forget_n : (State.forget s).n = s.n := rfl
@[simp] theorem State.planeTouched_n (d : Plane) : (State.planeTouched d s).n = s.n := by cases d <;> rfl

end Sys2Proof.Machine
end

