-- ==== Sys2Proof/Laws/Ops.lean ====
section
/-! SUPPORT. For each shared operation of Machine/Ops.lean what it does, said once: reads after dispatches and writes,
the ping-pong passes, loops over levels, the end of a command, and that every memory operation keeps the canonical form. -/

namespace Sys2Proof.Machine

variable {α ω : Type} (M : NumSystem α ω)

/-! ## The grid and element addresses -/

theorem State.n_pos (s : State α ω) : 0 < s.n := Nat.two_pow_pos _

theorem State.n_le (s : State α ω) : s.n ≤ 2 ^ 16 := Nat.pow_le_pow_right (by omega) (by have := s.logn.isLt; omega)

theorem State.n_mul_n_le (s : State α ω) : s.n * s.n ≤ 2 ^ 32 := by
  calc s.n * s.n ≤ 2 ^ 16 * 2 ^ 16 := Nat.mul_le_mul s.n_le s.n_le
    _ = 2 ^ 32 := by norm_num

/-- The row-major index of a point of the grid is in range (R10 of 00, R131 of 40). -/
theorem grid_lt {n x y : Nat} (hx : x < n) (hy : y < n) : y * n + x < n * n := by
  have := Nat.mul_le_mul_right n (Nat.succ_le_of_lt hy)
  rw [Nat.succ_mul] at this
  omega

theorem grid_mod {n x y : Nat} (hx : x < n) : (y * n + x) % n = x := by
  rw [Nat.add_comm, Nat.add_mul_mod_self_right, Nat.mod_eq_of_lt hx]

theorem grid_div {n x y : Nat} (hx : x < n) : (y * n + x) / n = y := by
  rw [Nat.add_comm, Nat.add_mul_div_right _ _ (by omega), Nat.div_eq_of_lt hx, Nat.zero_add]

theorem grid_valid {s : State α ω} {x y : Nat} (hx : x < s.n) (hy : y < s.n) : validIndex (y * s.n + x) :=
  lt_of_lt_of_le (grid_lt hx hy) s.n_mul_n_le

/-- Elements of different buffers, and different elements of one buffer, have different addresses (R29 of 10). -/
theorem elemAddr_inj {c c' i i' : Nat} (hi : validIndex i) (hi' : validIndex i') :
    elemAddr c i = elemAddr c' i' ↔ c = c' ∧ i = i' := by
  simp only [elemAddr]
  constructor
  · intro h
    constructor <;> omega
  · rintro ⟨rfl, rfl⟩; rfl

theorem elemAddr_mem {c c' i n : Nat} (hi : validIndex i) (hn : n ≤ 2 ^ 32) :
    (elemAddr c 0 ≤ elemAddr c' i ∧ elemAddr c' i < elemAddr c 0 + n) ↔ c' = c ∧ i < n := by
  simp only [elemAddr]
  constructor
  · rintro ⟨h1, h2⟩
    have : c' = c := by omega
    subst this
    omega
  · rintro ⟨rfl, h⟩
    omega

/-! ## Reads after a dispatch -/

variable (s : State α ω)

theorem State.planeElem_congr {s t : State α ω} (hp : t.planes = s.planes) (he : t.epoch = s.epoch) (p : Plane) (idx : Nat) :
    t.planeElem M p idx = s.planeElem M p idx := by
  simp only [State.planeElem, hp, he]

theorem State.specElem_congr {s t : State α ω} (hp : t.spectra = s.spectra) (he : t.epoch = s.epoch) (q : Spectrum)
    (idx : Nat) : t.specElem M q idx = s.specElem M q idx := by
  simp only [State.specElem, hp, he]

theorem State.brtEntry_congr {s t : State α ω} (hp : t.brt = s.brt) (he : t.epoch = s.epoch) (hl : t.logn = s.logn) (i : Nat) :
    t.brtEntry i = s.brtEntry i := by
  simp only [State.brtEntry, State.n, hp, he, hl]

theorem State.twtEntry_congr {s t : State α ω} (hp : t.twt = s.twt) (he : t.epoch = s.epoch) (k : Nat) :
    t.twtEntry M k = s.twtEntry M k := by
  simp only [State.twtEntry, hp, he]

/-- Everything a dispatch on a plane does to the planes. -/
theorem State.planeElem_dispatchP (d : Plane) (lane : Nat → Nat → α) (p : Plane) (idx : Nat) (h : validIndex idx) :
    (s.dispatchP d lane).planeElem M p idx
      = if p = d ∧ idx < s.n * s.n then lane (idx % s.n) (idx / s.n) else s.planeElem M p idx := by
  simp only [State.planeElem, State.dispatchP, Memory.get?_fill, elemAddr_mem h s.n_mul_n_le]
  by_cases hp : p = d
  · subst hp
    by_cases hi : idx < s.n * s.n
    · simp only [hi, and_self, if_true, Option.getD_some]
      have : elemAddr p.code idx - elemAddr p.code 0 = idx := by simp only [elemAddr]; omega
      rw [this]
    · simp only [hi, and_false, if_false]
  · have hc : p.code ≠ d.code := fun hc => hp (Plane.code_injective hc)
    simp only [hc, hp, false_and, if_false]

/-- Everything a dispatch on a spectrum does to the spectra. -/
theorem State.specElem_dispatchS (d : Spectrum) (lane : Nat → Nat → Cplx α) (q : Spectrum) (idx : Nat)
    (h : validIndex idx) :
    (s.dispatchS d lane).specElem M q idx
      = if q = d ∧ idx < s.n * s.n then lane (idx % s.n) (idx / s.n) else s.specElem M q idx := by
  simp only [State.specElem, State.dispatchS, Memory.get?_fill, elemAddr_mem h s.n_mul_n_le]
  by_cases hp : q = d
  · subst hp
    by_cases hi : idx < s.n * s.n
    · simp only [hi, and_self, if_true, Option.getD_some]
      have : elemAddr q.code idx - elemAddr q.code 0 = idx := by simp only [elemAddr]; omega
      rw [this]
    · simp only [hi, and_false, if_false]
  · have hc : q.code ≠ d.code := fun hc => hp (Spectrum.code_injective hc)
    simp only [hc, hp, false_and, if_false]

@[simp] theorem State.planeElem_dispatchS (d : Spectrum) (lane : Nat → Nat → Cplx α) (p : Plane) (idx : Nat) :
    (s.dispatchS d lane).planeElem M p idx = s.planeElem M p idx := rfl

@[simp] theorem State.specElem_dispatchP (d : Plane) (lane : Nat → Nat → α) (q : Spectrum) (idx : Nat) :
    (s.dispatchP d lane).specElem M q idx = s.specElem M q idx := rfl

@[simp] theorem State.brtEntry_dispatchP (d : Plane) (lane : Nat → Nat → α) (i : Nat) :
    (s.dispatchP d lane).brtEntry i = s.brtEntry i := rfl

@[simp] theorem State.brtEntry_dispatchS (d : Spectrum) (lane : Nat → Nat → Cplx α) (i : Nat) :
    (s.dispatchS d lane).brtEntry i = s.brtEntry i := rfl

@[simp] theorem State.twtEntry_dispatchP (d : Plane) (lane : Nat → Nat → α) (k : Nat) :
    (s.dispatchP d lane).twtEntry M k = s.twtEntry M k := rfl

@[simp] theorem State.twtEntry_dispatchS (d : Spectrum) (lane : Nat → Nat → Cplx α) (k : Nat) :
    (s.dispatchS d lane).twtEntry M k = s.twtEntry M k := rfl

theorem State.planeAt_dispatchP (d : Plane) (lane : Nat → Nat → α) (p : Plane) {x y : Nat}
    (hx : x < s.n) (hy : y < s.n) :
    (s.dispatchP d lane).planeAt M p x y = if p = d then lane x y else s.planeAt M p x y := by
  simp only [State.planeAt, State.dispatchP_n, State.planeElem_dispatchP M s d lane p _ (grid_valid hx hy), grid_lt hx hy,
    grid_mod hx, grid_div hx, and_true]

theorem State.specAt_dispatchS (d : Spectrum) (lane : Nat → Nat → Cplx α) (q : Spectrum) {x y : Nat}
    (hx : x < s.n) (hy : y < s.n) :
    (s.dispatchS d lane).specAt M q x y = if q = d then lane x y else s.specAt M q x y := by
  simp only [State.specAt, State.dispatchS_n, State.specElem_dispatchS M s d lane q _ (grid_valid hx hy), grid_lt hx hy,
    grid_mod hx, grid_div hx, and_true]

/-- Everything a dispatch on the bit-reversal table does to it. -/
theorem State.brtEntry_dispatchBrt (f : Nat → Nat) (i : Nat) :
    (s.dispatchBrt f).brtEntry i = if i < s.n then f i else s.brtEntry i := by
  simp only [State.brtEntry, State.dispatchBrt_brt, State.dispatchBrt_n, State.dispatchBrt_epoch, Memory.get?_fill,
    Nat.zero_le, true_and, Nat.zero_add, Nat.sub_zero]
  split <;> rfl

/-- Everything a dispatch on the twiddle table does to it. -/
theorem State.twtEntry_dispatchTwt (f : Nat → Cplx α) (k : Nat) :
    (s.dispatchTwt f).twtEntry M k = if k < s.n / 2 then f k else s.twtEntry M k := by
  simp only [State.twtEntry, State.dispatchTwt, Memory.get?_fill, Nat.zero_le, true_and, Nat.zero_add, Nat.sub_zero]
  split <;> rfl

@[simp] theorem State.twtEntry_dispatchBrt (f : Nat → Nat) (k : Nat) : (s.dispatchBrt f).twtEntry M k = s.twtEntry M k := rfl

@[simp] theorem State.brtEntry_dispatchTwt (f : Nat → Cplx α) (i : Nat) :
    (s.dispatchTwt f).brtEntry i = s.brtEntry i := rfl

/-! ## Reads after a window write -/

theorem State.planeElem_writePlane (p : Plane) (i : Nat) (v : α) (p' : Plane) (j : Nat) (hi : validIndex i)
    (hj : validIndex j) :
    (s.writePlane p i v).planeElem M p' j = if p' = p ∧ j = i then v else s.planeElem M p' j := by
  simp only [State.planeElem, State.writePlane, Memory.get?_set, elemAddr_inj hi hj]
  by_cases h : p' = p ∧ j = i
  · obtain ⟨rfl, rfl⟩ := h; simp
  · rw [if_neg h, if_neg fun hc => h ⟨(Plane.code_injective hc.1).symm, hc.2.symm⟩]

theorem State.specElem_writeSpec (q : Spectrum) (i : Nat) (z : Cplx α) (q' : Spectrum) (j : Nat) (hi : validIndex i)
    (hj : validIndex j) :
    (s.writeSpec q i z).specElem M q' j = if q' = q ∧ j = i then z else s.specElem M q' j := by
  simp only [State.specElem, State.writeSpec, Memory.get?_set, elemAddr_inj hi hj]
  by_cases h : q' = q ∧ j = i
  · obtain ⟨rfl, rfl⟩ := h; simp
  · rw [if_neg h, if_neg fun hc => h ⟨(Spectrum.code_injective hc.1).symm, hc.2.symm⟩]

/-! ## What a completed dispatch leaves, as a whole -/

/-- A command of one dispatch on a spectrum. -/
theorem writesSpectrum_dispatchS (d : Spectrum) (lane : Nat → Nat → Cplx α) :
    WritesSpectrum M s (s.dispatchS d lane).complete d lane where
  written x y hx hy := by
    show (s.dispatchS d lane).specAt M d x y = _
    rw [State.specAt_dispatchS M s d lane d hx hy, if_pos rfl]
  otherSpectra q idx hv h := by
    show (s.dispatchS d lane).specElem M q idx = _
    rw [State.specElem_dispatchS M s d lane q idx hv, if_neg h]
  planesKept _ _ := rfl
  rest := rfl
  idle := rfl
  counted := rfl

/-- Everything R231 of 43 does. -/
theorem State.planeTouched_eq (d : Plane) : s.planeTouched d = { s with fbValid := s.fbValid && decide (∀ i, d ≠ .mask i) } := by
  cases d <;> simp [State.planeTouched]

/-- A host-issued command of one dispatch on a plane. -/
theorem writesPlane_dispatchP (d : Plane) (lane : Nat → Nat → α) :
    WritesPlane M s ((s.dispatchP d lane).planeTouched d).complete d lane where
  written x y hx hy := by
    rw [State.planeTouched_eq]
    show (s.dispatchP d lane).planeAt M d x y = _
    rw [State.planeAt_dispatchP M s d lane d hx hy, if_pos rfl]
  otherPlanes p idx hv h := by
    rw [State.planeTouched_eq]
    show (s.dispatchP d lane).planeElem M p idx = _
    rw [State.planeElem_dispatchP M s d lane p idx hv, if_neg h]
  spectraKept q idx := by rw [State.planeTouched_eq]; rfl
  bankMask := by rintro ⟨i, rfl⟩; rfl
  bankOther h := by
    rw [State.planeTouched_eq]
    show (s.fbValid && decide (∀ i, d ≠ .mask i)) = s.fbValid
    rw [decide_eq_true h, Bool.and_true]
  rest := by rw [State.planeTouched_eq]; rfl
  idle := rfl
  counted := by rw [State.planeTouched_eq]; rfl

/-! ## Errors and the end of a command -/

/-- What logging an error does to `ERRLOG`, bit by bit (R35 of 10). -/
theorem State.getLsbD_logError (e k : Nat) (hk : k < 32) :
    (s.logError e).errLog.getLsbD k = (s.errLog.getLsbD k || decide (k = e)) := by
  simp only [State.logError_errLog, BitVec.getLsbD_or, BitVec.getLsbD_ofNat, Nat.testBit_two_pow, hk, decide_true,
    Bool.true_and]
  congr 1
  rw [decide_eq_decide]
  exact eq_comm

/-- Abandoning a command, as a whole (R250 of 44, R286 of 60). -/
theorem abandonedWith_abandon (e : CmdError) : AbandonedWith s (s.abandon e) e.code where
  code := rfl
  logged k hk := State.getLsbD_logError s e.code k hk
  idle := rfl
  rest := rfl

@[simp] theorem State.finish_ok (t : State α ω) : s.finish (.ok t) = .next t.complete := rfl

@[simp] theorem State.finish_error (e : CmdError) : s.finish (.error e) = .next (s.abandon e) := rfl

/-- Everything the end of a command can be. -/
theorem State.finish_cases (r : Except CmdError (State α ω)) :
    (∃ t, r = .ok t ∧ s.finish r = .next t.complete) ∨ ∃ e, r = .error e ∧ s.finish r = .next (s.abandon e) := by
  cases r with
  | ok t => exact .inl ⟨t, rfl, rfl⟩
  | error e => exact .inr ⟨e, rfl, rfl⟩

/-! ## Loops -/

/-- An invariant of the body is an invariant of the loop over levels. -/
theorem State.forLevels_induction {P : State α ω → Prop} {op : Nat → State α ω → State α ω} (h : ∀ i t, P t → P (op i t)) :
    ∀ k (s : State α ω), P s → P (State.forLevels op k s)
  | 0, _, hs => hs
  | k + 1, s, hs => h k _ (State.forLevels_induction h k s hs)

/-- An invariant that every pass of a transform keeps, kept by the passes of all stages. -/
theorem State.passes_induction {P : State α ω → Prop} {op : Spectrum → Spectrum → Nat → State α ω → State α ω}
    (h : ∀ k t, P t → P (t.pingPong fun d a => op d a (k + 1))) : ∀ k (s : State α ω), P s → P (State.passes op k s)
  | 0, _, hs => hs
  | k + 1, s, hs => h k _ (State.passes_induction h k s hs)

/-- The parity after a ping-pong dispatch, and every other field as the dispatch leaves it (R169 of 41). -/
theorem State.pingPong_eq (op : Spectrum → Spectrum → State α ω → State α ω) :
    s.pingPong op = { op (workBuffer (!s.pp)) (workBuffer s.pp) s with pp := !s.pp } := rfl

/-- `PP` after `k` passes (R169 of 41). -/
theorem State.pp_passes (op : Spectrum → Spectrum → Nat → State α ω → State α ω) :
    ∀ k, (State.passes op k s).pp = (s.pp ^^ decide (k % 2 = 1))
  | 0 => by simp [State.passes]
  | k + 1 => by
    simp only [State.passes, State.pingPong, State.pp_passes op k]
    rcases Nat.mod_two_eq_zero_or_one k with h | h <;>
      simp [h, Nat.add_mod]

/-! ## The canonical form of the memories -/

theorem canonicalMemories_dispatchP (d : Plane) (lane : Nat → Nat → α) (h : CanonicalMemories s) :
    CanonicalMemories (s.dispatchP d lane) := ⟨Memory.wf_fill _ _ _ _ h.1, h.2⟩

theorem canonicalMemories_dispatchS (d : Spectrum) (lane : Nat → Nat → Cplx α) (h : CanonicalMemories s) :
    CanonicalMemories (s.dispatchS d lane) := ⟨h.1, Memory.wf_fill _ _ _ _ h.2.1, h.2.2⟩

theorem canonicalMemories_dispatchBrt (f : Nat → Nat) (h : CanonicalMemories s) :
    CanonicalMemories (s.dispatchBrt f) := ⟨h.1, h.2.1, Memory.wf_fill _ _ _ _ h.2.2.1, h.2.2.2⟩

theorem canonicalMemories_dispatchTwt (f : Nat → Cplx α) (h : CanonicalMemories s) :
    CanonicalMemories (s.dispatchTwt f) := ⟨h.1, h.2.1, h.2.2.1, Memory.wf_fill _ _ _ _ h.2.2.2⟩

theorem canonicalMemories_writePlane (p : Plane) (i : Nat) (v : α) (h : CanonicalMemories s) :
    CanonicalMemories (s.writePlane p i v) := ⟨Memory.wf_set _ _ _ h.1, h.2⟩

theorem canonicalMemories_writeSpec (q : Spectrum) (i : Nat) (z : Cplx α) (h : CanonicalMemories s) :
    CanonicalMemories (s.writeSpec q i z) := ⟨h.1, Memory.wf_set _ _ _ h.2.1, h.2.2⟩

/-- The memories after reset and after "every buffer and both tables <- unspecified" have the form. -/
theorem canonicalMemories_forget : CanonicalMemories s.forget :=
  ⟨Memory.wf_nil, Memory.wf_nil, Memory.wf_nil, Memory.wf_nil⟩

theorem reset_memories_wf :
    State.reset.planes.wf = true ∧ State.reset.spectra.wf = true ∧ State.reset.brt.wf = true
      ∧ State.reset.twt.wf = true := ⟨Memory.wf_nil, Memory.wf_nil, Memory.wf_nil, Memory.wf_nil⟩

end Sys2Proof.Machine
end

