-- ==== Sys2Proof/Laws/PerInstr.lean ====
section
/-! SUPPORT. Laws of commands as syntax, one lemma per command: its word reads back as itself, and its word selects a row
of the opcode table. -/

namespace Sys2Proof

set_option Elab.async false

/-! ## The fields of a packed word (R100, R110 of 30) -/

@[simp] theorem opField_packWord (b a d op : Byte) : opField (packWord b a d op) = op := by
  ext i hi
  simp only [← BitVec.getLsbD_eq_getElem, opField, packWord, BitVec.getLsbD_extractLsb', BitVec.getLsbD_append, hi,
    decide_true, Bool.true_and, Nat.zero_add, if_true]

@[simp] theorem dField_packWord (b a d op : Byte) : dField (packWord b a d op) = d := by
  ext i hi
  simp only [← BitVec.getLsbD_eq_getElem, dField, packWord, BitVec.getLsbD_extractLsb', BitVec.getLsbD_append, hi,
    decide_true, Bool.true_and]
  rw [if_neg (by omega)]
  rw [if_pos (by omega)]
  exact congrArg d.getLsbD (by omega)

@[simp] theorem aField_packWord (b a d op : Byte) : aField (packWord b a d op) = a := by
  ext i hi
  simp only [← BitVec.getLsbD_eq_getElem, aField, packWord, BitVec.getLsbD_extractLsb', BitVec.getLsbD_append, hi,
    decide_true, Bool.true_and]
  rw [if_neg (by omega)]
  rw [if_neg (by omega)]
  rw [if_pos (by omega)]
  exact congrArg a.getLsbD (by omega)

@[simp] theorem bField_packWord (b a d op : Byte) : bField (packWord b a d op) = b := by
  ext i hi
  simp only [← BitVec.getLsbD_eq_getElem, bField, packWord, BitVec.getLsbD_extractLsb', BitVec.getLsbD_append, hi,
    decide_true, Bool.true_and]
  rw [if_neg (by omega)]
  rw [if_neg (by omega)]
  rw [if_neg (by omega)]
  exact congrArg b.getLsbD (by omega)

/-- A word is its four fields. -/
theorem packWord_fields (w : Word) : packWord (bField w) (aField w) (dField w) (opField w) = w := by
  ext i hi
  simp only [← BitVec.getLsbD_eq_getElem, packWord, bField, aField, dField, opField, BitVec.getLsbD_append,
    BitVec.getLsbD_extractLsb']
  split_ifs <;> rw [decide_eq_true (by omega), Bool.true_and] <;> exact congrArg w.getLsbD (by omega)

namespace Laws

/-! ## The word of a command reads back as the command (R104, R110 of 30) -/

/-- Decoding the encoding of the command gives the command. -/
def RoundTrip.Statement (i : Instr) : Prop := decode (encode i) = .ok i

theorem RoundTrip.nop : RoundTrip.Statement .nop := by
  simp [RoundTrip.Statement, encode, decode, formatZ]

theorem RoundTrip.init : RoundTrip.Statement .init := by
  simp [RoundTrip.Statement, encode, decode, formatZ]

theorem RoundTrip.shutdown : RoundTrip.Statement .shutdown := by
  simp [RoundTrip.Statement, encode, decode, formatZ]

theorem RoundTrip.frame : RoundTrip.Statement .frame := by
  simp [RoundTrip.Statement, encode, decode, formatZ]

theorem RoundTrip.tblBrev : RoundTrip.Statement .tblBrev := by
  simp [RoundTrip.Statement, encode, decode, formatZ]

theorem RoundTrip.tblTwid : RoundTrip.Statement .tblTwid := by
  simp [RoundTrip.Statement, encode, decode, formatZ]

theorem RoundTrip.widen (d a : Byte) : RoundTrip.Statement (.widen d a) := by
  simp [RoundTrip.Statement, encode, decode, formatDA]

theorem RoundTrip.center (d a : Byte) : RoundTrip.Statement (.center d a) := by
  simp [RoundTrip.Statement, encode, decode, formatDA]

theorem RoundTrip.conj (d a : Byte) : RoundTrip.Statement (.conj d a) := by
  simp [RoundTrip.Statement, encode, decode, formatDA]

theorem RoundTrip.scale (d a : Byte) : RoundTrip.Statement (.scale d a) := by
  simp [RoundTrip.Statement, encode, decode, formatDA]

theorem RoundTrip.toMag (d a : Byte) : RoundTrip.Statement (.toMag d a) := by
  simp [RoundTrip.Statement, encode, decode, formatDA]

theorem RoundTrip.toPhase (d a : Byte) : RoundTrip.Statement (.toPhase d a) := by
  simp [RoundTrip.Statement, encode, decode, formatDA]

theorem RoundTrip.toReal (d a : Byte) : RoundTrip.Statement (.toReal d a) := by
  simp [RoundTrip.Statement, encode, decode, formatDA]

theorem RoundTrip.copyP (d a : Byte) : RoundTrip.Statement (.copyP d a) := by
  simp [RoundTrip.Statement, encode, decode, formatDA]

theorem RoundTrip.copyS (d a : Byte) : RoundTrip.Statement (.copyS d a) := by
  simp [RoundTrip.Statement, encode, decode, formatDA]

theorem RoundTrip.zero (d : Byte) : RoundTrip.Statement (.zero d) := by
  simp [RoundTrip.Statement, encode, decode, formatD]

theorem RoundTrip.add (d a b : Byte) : RoundTrip.Statement (.add d a b) := by
  simp [RoundTrip.Statement, encode, decode, formatDAB]

theorem RoundTrip.mulM (d a b : Byte) : RoundTrip.Statement (.mulM d a b) := by
  simp [RoundTrip.Statement, encode, decode, formatDAB]

theorem RoundTrip.brevRow (d a : Byte) : RoundTrip.Statement (.brevRow d a) := by
  simp [RoundTrip.Statement, encode, decode, formatDA]

theorem RoundTrip.brevCol (d a : Byte) : RoundTrip.Statement (.brevCol d a) := by
  simp [RoundTrip.Statement, encode, decode, formatDA]

theorem RoundTrip.bflyRow (d a s : Byte) : RoundTrip.Statement (.bflyRow d a s) := by
  simp [RoundTrip.Statement, encode, decode, formatDAB]

theorem RoundTrip.bflyCol (d a s : Byte) : RoundTrip.Statement (.bflyCol d a s) := by
  simp [RoundTrip.Statement, encode, decode, formatDAB]

theorem RoundTrip.fftFwd (d a : Byte) : RoundTrip.Statement (.fftFwd d a) := by
  simp [RoundTrip.Statement, encode, decode, formatDA]

theorem RoundTrip.fftInv (d a : Byte) : RoundTrip.Statement (.fftInv d a) := by
  simp [RoundTrip.Statement, encode, decode, formatDA]

theorem RoundTrip.pamp (d a b : Byte) : RoundTrip.Statement (.pamp d a b) := by
  simp [RoundTrip.Statement, encode, decode, formatDAB]

theorem RoundTrip.genMask (d i : Byte) : RoundTrip.Statement (.genMask d i) := by
  simp [RoundTrip.Statement, encode, decode, formatDI]

theorem RoundTrip.genFilt : RoundTrip.Statement .genFilt := by
  simp [RoundTrip.Statement, encode, decode, formatZ]

/-! ## The word of a command selects a row (R105 of 30) -/

theorem selects_packWord {b a d op : Byte} {mk pt : Word} (mb ma md : Byte) (h1 : mk = packWord mb ma md 0xFF)
    (h2 : pt = packWord 0 0 0 op) (hb : b &&& mb = 0) (ha : a &&& ma = 0) (hd : d &&& md = 0) :
    OpcodeRow.selects ⟨mk, pt⟩ (packWord b a d op) = true := by
  have h3 : op &&& 0xFF = op := BitVec.and_allOnes
  subst h1 h2
  have h4 : packWord b a d op &&& packWord mb ma md 0xFF
      = packWord (b &&& mb) (a &&& ma) (d &&& md) (op &&& 0xFF) := by
    unfold packWord
    erw [BitVec.and_append, BitVec.and_append, BitVec.and_append]
  rw [OpcodeRow.selects, beq_iff_eq, h4, hb, ha, hd, h3]

/-- The encoding of the command selects a row of the opcode table. -/
def SelectsRow.Statement (i : Instr) : Prop := ∃ r ∈ opcodeRows, r.selects (encode i) = true

theorem SelectsRow.nop : SelectsRow.Statement .nop := ⟨⟨0xFFFFFFFF, 0x00⟩, by decide, by decide⟩

theorem SelectsRow.init : SelectsRow.Statement .init := ⟨⟨0xFFFFFFFF, 0x01⟩, by decide, by decide⟩

theorem SelectsRow.shutdown : SelectsRow.Statement .shutdown := ⟨⟨0xFFFFFFFF, 0x02⟩, by decide, by decide⟩

theorem SelectsRow.frame : SelectsRow.Statement .frame := ⟨⟨0xFFFFFFFF, 0x03⟩, by decide, by decide⟩

theorem SelectsRow.tblBrev : SelectsRow.Statement .tblBrev := ⟨⟨0xFFFFFFFF, 0x08⟩, by decide, by decide⟩

theorem SelectsRow.tblTwid : SelectsRow.Statement .tblTwid := ⟨⟨0xFFFFFFFF, 0x09⟩, by decide, by decide⟩

theorem SelectsRow.widen (d a : Byte) : SelectsRow.Statement (.widen d a) :=
  ⟨⟨0xFF0000FF, 0x10⟩, by decide, selects_packWord 0xFF 0 0 (by decide) (by decide) (by simp) (by simp) (by simp)⟩

theorem SelectsRow.center (d a : Byte) : SelectsRow.Statement (.center d a) :=
  ⟨⟨0xFF0000FF, 0x11⟩, by decide, selects_packWord 0xFF 0 0 (by decide) (by decide) (by simp) (by simp) (by simp)⟩

theorem SelectsRow.conj (d a : Byte) : SelectsRow.Statement (.conj d a) :=
  ⟨⟨0xFF0000FF, 0x12⟩, by decide, selects_packWord 0xFF 0 0 (by decide) (by decide) (by simp) (by simp) (by simp)⟩

theorem SelectsRow.scale (d a : Byte) : SelectsRow.Statement (.scale d a) :=
  ⟨⟨0xFF0000FF, 0x13⟩, by decide, selects_packWord 0xFF 0 0 (by decide) (by decide) (by simp) (by simp) (by simp)⟩

theorem SelectsRow.toMag (d a : Byte) : SelectsRow.Statement (.toMag d a) :=
  ⟨⟨0xFF0000FF, 0x14⟩, by decide, selects_packWord 0xFF 0 0 (by decide) (by decide) (by simp) (by simp) (by simp)⟩

theorem SelectsRow.toPhase (d a : Byte) : SelectsRow.Statement (.toPhase d a) :=
  ⟨⟨0xFF0000FF, 0x15⟩, by decide, selects_packWord 0xFF 0 0 (by decide) (by decide) (by simp) (by simp) (by simp)⟩

theorem SelectsRow.toReal (d a : Byte) : SelectsRow.Statement (.toReal d a) :=
  ⟨⟨0xFF0000FF, 0x16⟩, by decide, selects_packWord 0xFF 0 0 (by decide) (by decide) (by simp) (by simp) (by simp)⟩

theorem SelectsRow.copyP (d a : Byte) : SelectsRow.Statement (.copyP d a) :=
  ⟨⟨0xFF0000FF, 0x17⟩, by decide, selects_packWord 0xFF 0 0 (by decide) (by decide) (by simp) (by simp) (by simp)⟩

theorem SelectsRow.copyS (d a : Byte) : SelectsRow.Statement (.copyS d a) :=
  ⟨⟨0xFF0000FF, 0x18⟩, by decide, selects_packWord 0xFF 0 0 (by decide) (by decide) (by simp) (by simp) (by simp)⟩

theorem SelectsRow.zero (d : Byte) : SelectsRow.Statement (.zero d) :=
  ⟨⟨0xFFFF00FF, 0x19⟩, by decide, selects_packWord 0xFF 0xFF 0 (by decide) (by decide) (by simp) (by simp) (by simp)⟩

theorem SelectsRow.add (d a b : Byte) : SelectsRow.Statement (.add d a b) :=
  ⟨⟨0x000000FF, 0x1A⟩, by decide, selects_packWord 0 0 0 (by decide) (by decide) (by simp) (by simp) (by simp)⟩

theorem SelectsRow.mulM (d a b : Byte) : SelectsRow.Statement (.mulM d a b) :=
  ⟨⟨0x000000FF, 0x1B⟩, by decide, selects_packWord 0 0 0 (by decide) (by decide) (by simp) (by simp) (by simp)⟩

theorem SelectsRow.brevRow (d a : Byte) : SelectsRow.Statement (.brevRow d a) :=
  ⟨⟨0xFF0000FF, 0x20⟩, by decide, selects_packWord 0xFF 0 0 (by decide) (by decide) (by simp) (by simp) (by simp)⟩

theorem SelectsRow.brevCol (d a : Byte) : SelectsRow.Statement (.brevCol d a) :=
  ⟨⟨0xFF0000FF, 0x21⟩, by decide, selects_packWord 0xFF 0 0 (by decide) (by decide) (by simp) (by simp) (by simp)⟩

theorem SelectsRow.bflyRow (d a s : Byte) : SelectsRow.Statement (.bflyRow d a s) :=
  ⟨⟨0x000000FF, 0x22⟩, by decide, selects_packWord 0 0 0 (by decide) (by decide) (by simp) (by simp) (by simp)⟩

theorem SelectsRow.bflyCol (d a s : Byte) : SelectsRow.Statement (.bflyCol d a s) :=
  ⟨⟨0x000000FF, 0x23⟩, by decide, selects_packWord 0 0 0 (by decide) (by decide) (by simp) (by simp) (by simp)⟩

theorem SelectsRow.fftFwd (d a : Byte) : SelectsRow.Statement (.fftFwd d a) :=
  ⟨⟨0xFF0000FF, 0x28⟩, by decide, selects_packWord 0xFF 0 0 (by decide) (by decide) (by simp) (by simp) (by simp)⟩

theorem SelectsRow.fftInv (d a : Byte) : SelectsRow.Statement (.fftInv d a) :=
  ⟨⟨0xFF0000FF, 0x29⟩, by decide, selects_packWord 0xFF 0 0 (by decide) (by decide) (by simp) (by simp) (by simp)⟩

theorem SelectsRow.pamp (d a b : Byte) : SelectsRow.Statement (.pamp d a b) :=
  ⟨⟨0x000000FF, 0x30⟩, by decide, selects_packWord 0 0 0 (by decide) (by decide) (by simp) (by simp) (by simp)⟩

theorem SelectsRow.genMask (d i : Byte) : SelectsRow.Statement (.genMask d i) :=
  ⟨⟨0x00FF00FF, 0x31⟩, by decide, selects_packWord 0 0xFF 0 (by decide) (by decide) (by simp) (by simp) (by simp)⟩

theorem SelectsRow.genFilt : SelectsRow.Statement .genFilt := ⟨⟨0xFFFFFFFF, 0x32⟩, by decide, by decide⟩

end Laws

end Sys2Proof
end

