-- ==== Sys2Proof/Laws/Reference.lean ====
section
/-! SUPPORT. The two instances of the machine's number system, `binary32` and the reals: their small lemmas, and the tables
of a session over any number system. -/

namespace Sys2Proof.Machine

@[simp] theorem binary32_ops : binary32.ops = numerics := rfl

@[simp] theorem binary32_dec : binary32.dec = Number.dec? := rfl

@[simp] theorem binary32_enc : binary32.enc = Number.enc := rfl

@[simp] theorem binary32_ofWord (w : Word) : binary32.ofWord w = w := rfl

@[simp] theorem binary32_toWord (w : Word) : binary32.toWord w = some w := rfl

@[simp] theorem binary32_resetRegs : binary32.resetRegs = Regs.reset := rfl

/-- A finite pattern is a number (R75 of 20, U7). -/
@[simp] theorem Number.dec?_isSome (w : Word) : (Number.dec? w).isSome = isFinitePattern w := by
  unfold Number.dec?
  split
  · rename_i h; rw [Number.ofRat?_of_storable (storable_patternValue h), h]; rfl
  · rename_i h; simpa using h

/-- A write of a numeric register of `binary32` (R37 of 10, U7). -/
theorem State.writeNum_binary32 (w : Word) (s : State) (r : Regs) :
    s.writeNum binary32 w r = if isFinitePattern w then .next { s with regs := r } else .refused .notFinite := by
  unfold State.writeNum; rw [binary32_dec, Number.dec?_isSome]

/-- Among the real numbers every word stands for itself (log 28). -/
theorem realToWord_natCast (w : Word) : realToWord (w.toNat : ℝ) = some w := by
  unfold realToWord
  have h : BitVec.ofInt 32 ⌊(w.toNat : ℝ)⌋ = w := by
    rw [Int.floor_natCast]; exact BitVec.ofInt_natCast 32 w.toNat |>.trans (BitVec.ofNat_toNat 32 w |>.trans (BitVec.setWidth_eq w))
  simp only [h, if_pos]

/-- The word among the reals determines the real. -/
theorem realToWord_eq_some {x : ℝ} {w : Word} : realToWord x = some w ↔ (w.toNat : ℝ) = x := by
  constructor
  · intro h
    simp only [realToWord] at h
    split at h
    · rename_i hx; cases h; exact hx
    · cases h
  · rintro rfl; exact realToWord_natCast w

/-- Every choice of the open parameters within their bounds makes a reference instance. -/
theorem isReference_realSystem {eps : ℝ} {grad : List ℝ → Nat → Nat → Nat → ℝ} (unwritten : Nat → Nat → Nat → ℝ)
    (h1 : 0 < eps) (h2 : eps ≤ 1 / 8) (h3 : ∀ mags u v n, 0 ≤ grad mags u v n) :
    IsReference (realSystem eps grad unwritten) where
  ops := rfl
  eps_pos := h1
  eps_le := h2
  grad_nonneg := h3
  tol := rfl
  enc _ := rfl
  dec _ := rfl
  ofWord _ := rfl
  toWord _ := rfl
  resetRegs := rfl

/-- TBL.BREV and TBL.TWID leave the tables of a session (R30 of 10). -/
theorem sessionTables_fill {α ω : Type} (M : NumSystem α ω) {s : State α ω} (h1 : 1 ≤ s.logn.val)
    (h2 : s.logn.val ≤ Config.lognMax) : SessionTables M (s.fillBrt.fillTwt M) := fun _ =>
  ⟨h1, h2, fun i hi => (State.brtEntry_dispatchBrt s _ i).trans (if_pos hi),
    fun k hk => (State.twtEntry_dispatchTwt M s.fillBrt _ k).trans (if_pos hk)⟩

end Sys2Proof.Machine
end

