-- ==== Sys2Proof/Laws/Step.lean ====
section
/-! SUPPORT. Everything a window access, a register access and a step can do, said once. -/

namespace Sys2Proof.Machine

variable {α ω : Type} (M : NumSystem α ω) {s t : State α ω}

/-! ## The window -/

/-- When a window access is admitted, and to what (R76 of 20). -/
theorem State.windowTarget_eq_some {k : WindowTarget} :
    s.windowTarget = some k ↔ s.windowNamed = some k ∧ Admits s (s.windowSize k) := by
  unfold State.windowTarget Admits
  cases s.windowNamed with
  | none => simp
  | some j =>
    by_cases h : s.busy = false ∧ s.session ≠ .uninitialized ∧ s.regs.hbIdx.toNat < s.windowSize j
    · simp only [if_pos h, Option.some.injEq]
      exact ⟨fun e => ⟨e, e ▸ h⟩, fun e => e.1⟩
    · simp only [if_neg h, Option.some.injEq, reduceCtorEq, false_iff, not_and]
      rintro rfl h1 h2 h3; exact h ⟨h1, h2, h3⟩

/-- What the selection names, given the plane. -/
theorem State.windowNamed_plane {p : Plane} (h : planeOf (selectedId s) = some p) :
    s.windowNamed = some (.plane p) := by
  have h' : planeOf (s.regs.hbSel.extractLsb' 0 8) = some p := h
  simp only [State.windowNamed, h']; rfl

/-- No identifier byte names both a plane and a spectrum (R28 of 10). -/
theorem planeOf_eq_none_of_spectrum {b : Byte} {q : Spectrum} (h : spectrumOf b = some q) : planeOf b = none := by
  cases hp : planeOf b with
  | none => rfl
  | some p =>
    have h1 := planeOf_code hp
    have h2 := spectrumOf_code h
    have h3 := p.code_lt
    have h4 : 0x40 ≤ q.code := by cases q <;> simp only [Spectrum.code] <;> omega
    omega

theorem State.windowNamed_spectrum {q : Spectrum} (h : spectrumOf (selectedId s) = some q) :
    s.windowNamed = some (.spectrum q) := by
  have h' : spectrumOf (s.regs.hbSel.extractLsb' 0 8) = some q := h
  simp only [State.windowNamed, planeOf_eq_none_of_spectrum h', h']; rfl

/-- Everything a window read does. -/
theorem State.windowRead_cases (s : State α ω) (im : Bool) :
    (∃ k, s.windowTarget = some k ∧ s.windowRead M im = { s with rdata := s.windowWord M im k })
    ∨ (s.windowTarget = none
      ∧ s.windowRead M im
        = { s.logError hostAccCode with rdata := M.ofWord (Config.refusedRead s.draws), draws := s.draws + 1 }) := by
  unfold State.windowRead
  cases s.windowTarget with
  | some k => exact .inl ⟨k, rfl, rfl⟩
  | none => exact .inr ⟨rfl, rfl⟩

/-- Everything a window write that gives a next state does. -/
theorem State.windowWrite_cases {im : Bool} {w : ω} (h : s.windowWrite M im w = .next t) :
    (t = s.logError hostAccCode ∧ (s.windowTarget = none ∨ ∃ k, s.windowTarget = some (.table k)))
    ∨ (∃ p, s.windowTarget = some (.plane p) ∧ im = true ∧ t = s.planeTouched p)
    ∨ (∃ p v, s.windowTarget = some (.plane p) ∧ im = false ∧ M.dec w = some v
        ∧ t = (s.writePlane p s.regs.hbIdx.toNat v).planeTouched p)
    ∨ ∃ q v, s.windowTarget = some (.spectrum q) ∧ M.dec w = some v
        ∧ t = s.writeSpec q s.regs.hbIdx.toNat
          (if im then { s.specElem M q s.regs.hbIdx.toNat with im := v }
            else { s.specElem M q s.regs.hbIdx.toNat with re := v }) := by
  unfold State.windowWrite at h
  simp only at h
  split at h
  · rename_i h1; cases h; exact .inl ⟨rfl, .inl h1⟩
  · rename_i h1; cases h; exact .inl ⟨rfl, .inr ⟨_, h1⟩⟩
  · rename_i h1; cases h; exact .inr (.inl ⟨_, h1, rfl, rfl⟩)
  · rename_i h1
    split at h
    · rename_i h2; cases h; exact .inr (.inr (.inl ⟨_, _, h1, rfl, h2, rfl⟩))
    · cases h
  · rename_i h1
    split at h
    · rename_i h2; cases h; exact .inr (.inr (.inr ⟨_, _, h1, h2, rfl⟩))
    · cases h

/-! ## Register accesses -/

/-- `t` is `s` but for the word registers, the returned word, the count of draws, and `ERRLOG`, in which at most one of the
two host-access bits has been set. -/
structure OnlyRegisters (s t : State α ω) : Prop where
  rest : { t with regs := s.regs, errLog := s.errLog, rdata := s.rdata, draws := s.draws } = s
  log : t.errLog = s.errLog ∨ t.errLog = (s.logError overrunCode).errLog ∨ t.errLog = (s.logError hostAccCode).errLog

/-- A register read changes no state of the spec's but `ERRLOG`. -/
theorem onlyRegisters_readReg [DecidableEq α] (s : State α ω) (r : RegName) : OnlyRegisters s (s.readReg M r) := by
  have hw (im : Bool) : OnlyRegisters s (s.windowRead M im) := by
    rcases State.windowRead_cases M s im with ⟨k, -, h⟩ | ⟨-, h⟩ <;> rw [h]
    · exact ⟨rfl, .inl rfl⟩
    · exact ⟨rfl, .inr (.inr rfl)⟩
  cases r with
  | hbRe => exact hw false
  | hbIm => exact hw true
  | status =>
    show OnlyRegisters s (if s.busy then _ else _)
    split <;> exact ⟨rfl, .inl rfl⟩
  | _ => exact ⟨rfl, .inl rfl⟩

/-- What a write of a numeric register that gives a next state does. -/
theorem State.writeNum_next {x : ω} {r : Regs ω} (h : s.writeNum M x r = .next t) :
    (M.dec x).isSome = true ∧ t = { s with regs := r } := by
  unfold State.writeNum at h
  split at h
  · rename_i hf; cases h; exact ⟨hf, rfl⟩
  · cases h

/-- What a write that needs a word, and gives a next state, does. -/
theorem withWord_next {x : ω} {f : Word → State α ω} (h : withWord M x f = .next t) :
    ∃ w, M.toWord x = some w ∧ t = f w := by
  unfold withWord at h
  split at h
  · rename_i w hw; cases h; exact ⟨w, hw, rfl⟩
  · cases h

/-- What a register write that gives a next state does. -/
theorem State.writeReg_cases {r : RegName} {w : ω} (h : s.writeReg M r w = .next t) :
    OnlyRegisters s t ∨ (r = .cmd ∧ s.busy = false ∧ ∃ w', M.toWord w = some w' ∧ t = s.accept M w')
    ∨ (r = .hbRe ∧ s.windowWrite M false w = .next t) ∨ (r = .hbIm ∧ s.windowWrite M true w = .next t) := by
  cases r with
  | cmd =>
    simp only [State.writeReg] at h
    split at h
    · cases h; exact .inl ⟨rfl, .inr (.inl rfl)⟩
    · rename_i hb; exact .inr (.inl ⟨rfl, by simpa using hb, withWord_next M h⟩)
  | hbRe => exact .inr (.inr (.inl ⟨rfl, h⟩))
  | hbIm => exact .inr (.inr (.inr ⟨rfl, h⟩))
  | minFreq => obtain ⟨-, rfl⟩ := State.writeNum_next M h; exact .inl ⟨rfl, .inl rfl⟩
  | maxFreq => obtain ⟨-, rfl⟩ := State.writeNum_next M h; exact .inl ⟨rfl, .inl rfl⟩
  | phaseScale => obtain ⟨-, rfl⟩ := State.writeNum_next M h; exact .inl ⟨rfl, .inl rfl⟩
  | magThresh => obtain ⟨-, rfl⟩ := State.writeNum_next M h; exact .inl ⟨rfl, .inl rfl⟩
  | magScale => obtain ⟨-, rfl⟩ := State.writeNum_next M h; exact .inl ⟨rfl, .inl rfl⟩
  | lowCut => obtain ⟨-, rfl⟩ := State.writeNum_next M h; exact .inl ⟨rfl, .inl rfl⟩
  | highCut => obtain ⟨-, rfl⟩ := State.writeNum_next M h; exact .inl ⟨rfl, .inl rfl⟩
  | steepness => obtain ⟨-, rfl⟩ := State.writeNum_next M h; exact .inl ⟨rfl, .inl rfl⟩
  | motionSens => obtain ⟨-, rfl⟩ := State.writeNum_next M h; exact .inl ⟨rfl, .inl rfl⟩
  | edgeEnh => obtain ⟨-, rfl⟩ := State.writeNum_next M h; exact .inl ⟨rfl, .inl rfl⟩
  | ctrl => obtain ⟨_, -, rfl⟩ := withWord_next M h; exact .inl ⟨rfl, .inl rfl⟩
  | canvasW => obtain ⟨_, -, rfl⟩ := withWord_next M h; exact .inl ⟨rfl, .inl rfl⟩
  | canvasH => obtain ⟨_, -, rfl⟩ := withWord_next M h; exact .inl ⟨rfl, .inl rfl⟩
  | pyrLevels => obtain ⟨_, -, rfl⟩ := withWord_next M h; exact .inl ⟨rfl, .inl rfl⟩
  | hbSel => obtain ⟨_, -, rfl⟩ := withWord_next M h; exact .inl ⟨rfl, .inl rfl⟩
  | hbIdx => obtain ⟨_, -, rfl⟩ := withWord_next M h; exact .inl ⟨rfl, .inl rfl⟩
  | _ => cases h; exact .inl ⟨rfl, .inl rfl⟩

theorem atOffset_next {off : Nat} {act : Option RegName → Host.Outcome (State α ω) Fault Refusal}
    (h : atOffset off act = .next t) : off < 256 ∧ off % 4 = 0 ∧ act (regAt off) = .next t := by
  unfold atOffset at h
  split at h
  · cases h
  · split at h
    · cases h
    · exact ⟨by omega, by omega, h⟩

theorem atOffset_ok {off : Nat} {act : Option RegName → Host.Outcome (State α ω) Fault Refusal} (h1 : off < 256)
    (h2 : off % 4 = 0) : atOffset off act = act (regAt off) := by
  unfold atOffset
  rw [if_neg (by omega), if_neg (by omega)]

/-- Everything a host access that gives a next state does: registers and logs only, an accepted command, or an admitted
window write. -/
theorem State.hostAccess_cases [DecidableEq α] {x : HostAccess ω} (h : s.hostAccess M x = .next t) :
    OnlyRegisters s t
    ∨ (s.busy = false ∧ ∃ w, t = s.accept M w)
    ∨ (∃ p, s.windowTarget = some (.plane p) ∧ t = s.planeTouched p)
    ∨ (∃ p v, s.windowTarget = some (.plane p) ∧ t = (s.writePlane p s.regs.hbIdx.toNat v).planeTouched p)
    ∨ ∃ q z, s.windowTarget = some (.spectrum q) ∧ t = s.writeSpec q s.regs.hbIdx.toNat z := by
  have hwin {im : Bool} {w : ω} (h : s.windowWrite M im w = .next t) :
      OnlyRegisters s t
      ∨ (s.busy = false ∧ ∃ w, t = s.accept M w)
      ∨ (∃ p, s.windowTarget = some (.plane p) ∧ t = s.planeTouched p)
      ∨ (∃ p v, s.windowTarget = some (.plane p) ∧ t = (s.writePlane p s.regs.hbIdx.toNat v).planeTouched p)
      ∨ ∃ q z, s.windowTarget = some (.spectrum q) ∧ t = s.writeSpec q s.regs.hbIdx.toNat z := by
    rcases State.windowWrite_cases M h with ⟨rfl, -⟩ | ⟨p, hp, -, rfl⟩ | ⟨p, v, hp, -, -, rfl⟩ | ⟨q, v, hq, -, rfl⟩
    · exact .inl ⟨rfl, .inr (.inr rfl)⟩
    · exact .inr (.inr (.inl ⟨p, hp, rfl⟩))
    · exact .inr (.inr (.inr (.inl ⟨p, v, hp, rfl⟩)))
    · exact .inr (.inr (.inr (.inr ⟨q, _, hq, rfl⟩)))
  cases x with
  | read off =>
    unfold State.hostAccess at h
    obtain ⟨-, -, h⟩ := atOffset_next h
    split at h
    · cases h; exact .inl (onlyRegisters_readReg M s _)
    · cases h; exact .inl ⟨rfl, .inl rfl⟩
  | write off w =>
    unfold State.hostAccess at h
    obtain ⟨-, -, h⟩ := atOffset_next h
    split at h
    · rcases State.writeReg_cases M h with h | ⟨-, hb, w', -, rfl⟩ | ⟨-, h⟩ | ⟨-, h⟩
      · exact .inl h
      · exact .inr (.inl ⟨hb, w', rfl⟩)
      · exact hwin h
      · exact hwin h
    · cases h; exact .inl ⟨rfl, .inl rfl⟩
  | otherWidth off bits =>
    unfold State.hostAccess at h
    exact nomatch (atOffset_next h).2.2

/-! ## Steps -/

/-- Everything a step that gives a next state does, said by the turn it takes. -/
theorem stepOver_cases [DecidableEq α] (h : stepOver M s = .next t) :
    (s.busy = false ∧ t = { s with agenda := s.agenda.tail } ∧ SequencerTurn s)
    ∨ (s.busy = true ∧ State.runCurrent M { s with agenda := s.agenda.tail } = .next t ∧ SequencerTurn s)
    ∨ (∃ x, s.agenda.head? = some (.host x) ∧ State.hostAccess M x { s with agenda := s.agenda.tail } = .next t)
    ∨ (s.agenda.head? = some .reset ∧ t = State.resetEvent M { s with agenda := s.agenda.tail })
    ∨ ∃ ok, s.agenda.head? = some (.resources ok) ∧ t = { s with agenda := s.agenda.tail, resOk := ok } := by
  have hseq (u : State α ω) (hu : State.sequence M u = .next t) :
      (u.busy = false ∧ t = u) ∨ (u.busy = true ∧ u.runCurrent M = .next t) := by
    unfold State.sequence at hu
    split at hu
    · rename_i hb; exact .inr ⟨hb, hu⟩
    · rename_i hb; cases hu; exact .inl ⟨by simpa using hb, rfl⟩
  unfold stepOver at h
  cases ha : s.agenda with
  | nil =>
    simp only [ha] at h
    have hs : s = { s with agenda := [] } := by cases s; cases ha; rfl
    rcases hseq s h with ⟨hb, ht⟩ | ⟨hb, ht⟩
    · exact .inl ⟨hb, ht.trans hs, .inl ha⟩
    · refine .inr (.inl ⟨hb, ?_, .inl ha⟩)
      show State.runCurrent M { s with agenda := [] } = .next t
      rw [← hs]; exact ht
  | cons a rest =>
    simp only [ha] at h
    cases a with
    | host x => exact .inr (.inr (.inl ⟨x, rfl, h⟩))
    | seq =>
      rcases hseq _ h with ⟨hb, ht⟩ | ⟨hb, ht⟩
      · exact .inl ⟨hb, ht, .inr (by rw [ha]; rfl)⟩
      · exact .inr (.inl ⟨hb, ht, .inr (by rw [ha]; rfl)⟩)
    | reset => cases h; exact .inr (.inr (.inr (.inl ⟨rfl, rfl⟩)))
    | resources ok => cases h; exact .inr (.inr (.inr (.inr ⟨ok, rfl, rfl⟩)))

/-- The sequencer's turn is no reset. -/
theorem SequencerTurn.not_reset (h : SequencerTurn s) : s.agenda.head? ≠ some .reset := by
  rcases h with h | h <;> rw [h] <;> simp

/-- Everything running the accepted word does: the command it decodes to, or E_ILLCMD (R108, R109 of 30). -/
theorem State.runCurrent_cases [DecidableEq α] (s : State α ω) :
    (∃ i, decode s.cur = .ok i ∧ s.runCurrent M = execOver M i s)
    ∨ ((∀ i, decode s.cur ≠ .ok i) ∧ s.runCurrent M = .next (s.abandon .illcmd)) := by
  unfold State.runCurrent
  cases h : decode s.cur with
  | ok i => exact .inl ⟨i, rfl, rfl⟩
  | error e => exact .inr ⟨fun i => by simp, rfl⟩

/-! ## The machine that `step` runs -/

/-- `exec` is the dispatcher over the numbers of the storage format, arm by arm. -/
theorem exec_eq_execOver (i : Instr) (s : State) : exec i s = execOver binary32 i s := by
  cases i <;> rfl

theorem step_eq_stepOver (s : State) : step s = stepOver binary32 s := rfl

end Sys2Proof.Machine
end

