-- ==== Sys2Proof/Tests/Slice0.lean ====
section
/-! SUPPORT. Own tests. Expected values are those of 95_test_vectors (V), of the examples in the rules (R), or worked by
hand from the rules. After them, for every statement with hypotheses, a witness that meets them. -/

namespace Sys2Proof.Tests

set_option Elab.async false

open Sys2Proof.Machine

/-! ## Helpers -/

/-- The stored number of a value that can be stored. -/
def num (q : ℚ) : Number := (Number.ofRat? q).getD Number.zero

def cpx (a b : ℚ) : Cplx Number := ⟨num a, num b⟩

/-- A snapshot with `pscale = sens = mscale = 1`, one level, `fmin = 1/8`, `fmax = 3/8`. -/
def snap : Params Number :=
  { Params.blank Number.zero with
    levels := 1, fmin := num (1 / 8), fmax := num (3 / 8), steep := num 3, sens := num 1, pscale := num 1
    mscale := num 1, hi := num (1 / 2) }

/-- A plane's elements in row-major order, from index 0. -/
def planeCells (p : Plane) (l : List ℚ) : Memory Number := l.mapIdx fun i q => (elemAddr p.code i, num q)

def specCells (q : Spectrum) (l : List (ℚ × ℚ)) : Memory (Cplx Number) :=
  l.mapIdx fun i z => (elemAddr q.code i, cpx z.1 z.2)

/-- A running command in a session of canvas size `2^k`, in the given snapshot, with empty buffers. -/
def running (k : Fin 17) (p : Params Number) : State :=
  { State.reset with session := .ready, busy := true, logn := k, snap := p }

/-- `N = 2`; `W0` holds the source of V12; the tables of V10 and V11. -/
def v12 : State :=
  { running 1 snap with
    spectra := specCells .w0 [(1, 2), (-3, 4), (0, 0), (0, -5)]
    planes := planeCells .lin [1, 2, 3, 4] ++ planeCells .lprev [1, 1 / 2, 1 / 4, 0]
    brt := [(0, 0), (1, 1)]
    twt := [(0, cpx 1 0)] }

/-- `N = 4`; row 0 of `W0` is the row of V20; the tables of V10 and V11. -/
def v20 : State :=
  { running 2 snap with
    spectra := specCells .w0 [(1, 0), (2, 0), (3, 0), (4, 0)]
    brt := [(0, 0), (1, 2), (2, 1), (3, 3)]
    twt := [(0, cpx 1 0), (1, cpx 0 (-1))] }

/-- The next state, when there is one. -/
def after (o : Host.Outcome State Fault Refusal) : State :=
  match o with
  | .next t => t
  | _ => State.reset

/-- The first `n` elements of a spectrum. -/
def specList (t : State) (q : Spectrum) (n : Nat) : List (Cplx Number) := (List.range n).map (t.specElem binary32 q)

/-- The first `n` elements of a plane. -/
def planeList (t : State) (p : Plane) (n : Nat) : List Number := (List.range n).map (t.planeElem binary32 p)

/-! ## Decoding: words written out from the formats of R101 and the opcodes of R104 -/

/-- Format Z: 00000000 00000000 00000000 oooooooo. -/
theorem test_decode_formatZ :
    [0b00000000000000000000000000000000#32, 0b00000000000000000000000000000001#32,
      0b00000000000000000000000000000010#32, 0b00000000000000000000000000000011#32,
      0b00000000000000000000000000001000#32, 0b00000000000000000000000000001001#32,
      0b00000000000000000000000000110010#32].map decode
      = [.ok .nop, .ok .init, .ok .shutdown, .ok .frame, .ok .tblBrev, .ok .tblTwid, .ok .genFilt] := by decide

/-- Format DA: 00000000 aaaaaaaa dddddddd oooooooo, with `a = 0x42`, `d = 0x03`. -/
theorem test_decode_formatDA_low :
    [0b00000000010000100000001100010000#32, 0b00000000010000100000001100010001#32,
      0b00000000010000100000001100010010#32, 0b00000000010000100000001100010011#32,
      0b00000000010000100000001100010100#32, 0b00000000010000100000001100010101#32,
      0b00000000010000100000001100010110#32, 0b00000000010000100000001100010111#32,
      0b00000000010000100000001100011000#32].map decode
      = [.ok (.widen 0x03 0x42), .ok (.center 0x03 0x42), .ok (.conj 0x03 0x42), .ok (.scale 0x03 0x42),
        .ok (.toMag 0x03 0x42), .ok (.toPhase 0x03 0x42), .ok (.toReal 0x03 0x42), .ok (.copyP 0x03 0x42),
        .ok (.copyS 0x03 0x42)] := by decide

theorem test_decode_formatDA_high :
    [0b00000000010000000100000100100000#32, 0b00000000010000000100000100100001#32,
      0b00000000000000000100001000101000#32, 0b00000000010001000000001000101001#32].map decode
      = [.ok (.brevRow 0x41 0x40), .ok (.brevCol 0x41 0x40), .ok (.fftFwd 0x42 0x00), .ok (.fftInv 0x02 0x44)] := by
  decide

/-- Formats D, DAB, DAI and DI. -/
theorem test_decode_others :
    [0b00000000000000000100010000011001#32, 0b10100001010001000100001000011010#32,
      0b00100010010000100110001000011011#32, 0b00000010010000000100000100100010#32,
      0b00000011010000000100000100100011#32, 0b01000011010000100100010000110000#32,
      0b00000100000000000010010000110001#32].map decode
      = [.ok (.zero 0x44), .ok (.add 0x42 0x44 0xA1), .ok (.mulM 0x62 0x42 0x22), .ok (.bflyRow 0x41 0x40 2),
        .ok (.bflyCol 0x41 0x40 3), .ok (.pamp 0x44 0x42 0x43), .ok (.genMask 0x24 4)] := by decide

/-- The words of V1, read. -/
theorem test_decode_v1 :
    [0x00404011#32, 0x00404120#32, 0x01414022#32, 0x00404218#32, 0x00400216#32, 0x00440314#32, 0x00440315#32,
      0x00000117#32, 0x01002131#32, 0x2143811B#32, 0x8161A130#32, 0xA044441A#32].map decode
      = [.ok (.center 0x40 0x40), .ok (.brevRow 0x41 0x40), .ok (.bflyRow 0x40 0x41 1), .ok (.copyS 0x42 0x40),
        .ok (.toReal 0x02 0x40), .ok (.toMag 0x03 0x44), .ok (.toPhase 0x03 0x44), .ok (.copyP 0x01 0x00),
        .ok (.genMask 0x21 1), .ok (.mulM 0x81 0x43 0x21), .ok (.pamp 0xA1 0x61 0x81),
        .ok (.add 0x44 0x44 0xA0)] := by decide

/-- A table row's bits are laid out as little-endian bytes and read back (R71 of 20). -/
theorem test_decodeTableWord :
    decodeTableWord 32 0x04002431 = some (.genMask 0x24 4) ∧ decodeTableWord 8 0x32 = some .genFilt
      ∧ decodeTableWord 32 0x04 = none
      ∧ decodeBytes [0x31, 0x24, 0x00, 0x04, 0x32] = .ok (.genMask 0x24 4, [0x32]) := by decide

/-- A reserved opcode, and a non-zero unused field of each format that has one (R108, checks 1 and 2). -/
theorem test_decode_refuses :
    decode 0x00000004 = .error (.reservedOpcode 0x04) ∧ decode 0x00000103 = .error (.unusedField 0x03)
      ∧ decode 0x01000001 = .error (.unusedField 0x01) ∧ decode 0x00014419 = .error (.unusedField 0x19)
      ∧ decode 0x01404012 = .error (.unusedField 0x12) ∧ decode 0x04012431 = .error (.unusedField 0x31)
      ∧ decodeBytes [0x31, 0x24, 0x00] = .error .truncated := by decide

/-! ## Well-formedness: an ill-formed term for each check -/

theorem test_wf_accepts : (Instr.bflyRow 0x41 0x40 1).wf = true ∧ (Instr.pamp 0x44 0x42 0x42).wf = true := by decide

/-- CONJ LIN, LIN; WIDEN SCUR, SCUR; an undefined identifier; a table (V2). -/
theorem test_wf_kinds :
    (Instr.conj 0x00 0x00).wf = false ∧ (Instr.widen 0x42 0x42).wf = false ∧ (Instr.conj 0x40 0x45).wf = false
      ∧ (Instr.conj 0x40 0xF0).wf = false := by decide

/-- A butterfly of stage 0 (V2). -/
theorem test_wf_stage : (Instr.bflyRow 0x41 0x40 0).wf = false ∧ (Instr.bflyCol 0x41 0x40 0).wf = false := by decide

/-- BREV.ROW W0, W0; PAMP SMOD, SMOD, SPRV; PAMP SMOD, SCUR, SMOD (V2). -/
theorem test_wf_distinct :
    (Instr.brevRow 0x40 0x40).wf = false ∧ (Instr.pamp 0x44 0x44 0x43).wf = false
      ∧ (Instr.pamp 0x44 0x42 0x44).wf = false := by decide

/-! ## Numbers (V53, R75 of 20) -/

theorem test_dec :
    [0x3F800000#32, 0xBF800000#32, 0x40400000#32, 0x00000000#32, 0x80000000#32, 0x40800000#32].map Number.dec?
      = [some (num 1), some (num (-1)), some (num 3), some (num 0), some (num 0), some (num 4)] := by decide +kernel

theorem test_dec_not_finite : Number.dec? 0x7F800000 = none ∧ Number.dec? 0xFFC00001 = none := by decide +kernel

theorem test_enc :
    [num 1, num (-1), num 2, num 4, num (1 / 2 ^ 149), num 0].map Number.enc
      = [0x3F800000#32, 0xBF800000#32, 0x40000000#32, 0x40800000#32, 0x00000001#32, 0x00000000#32] := by
  decide +kernel

/-- The patterns of V53 for 0.05 and the square root of one half survive a round trip. -/
theorem test_enc_dec :
    (Number.dec? 0x3D4CCCCD).map Number.enc = some 0x3D4CCCCD#32
      ∧ (Number.dec? 0xBF3504F3).map Number.enc = some 0xBF3504F3#32
      ∧ (Number.dec? 0x7F7FFFFF).map Number.enc = some 0x7F7FFFFF#32
      ∧ (Number.dec? 0x007FFFFF).map Number.enc = some 0x007FFFFF#32 := by decide +kernel

theorem test_sqrt : Number.sqrt (num 25) = num 5 ∧ Number.sqrt (num (1 / 4)) = num (1 / 2) := by decide +kernel

/-! ## One step of each command (V10, V12, V20, V22, V24) -/

theorem test_nop : (after (exec .nop v12)).statusWord = 0x00010002 ∧ exec .nop v12 = .next v12.complete :=
  ⟨by decide, rfl⟩

/-- CANVAS 0 x 0, 6 x 6 and 8 x 4 (V50): E_PRECOND, `STATUS` 0x200. -/
theorem test_init_precond :
    [(0#32, 0#32), (1#32, 1#32), (6#32, 6#32), (8#32, 4#32)].map (fun c =>
      (after (exec .init { v12 with snap := { snap with canvasW := c.1, canvasH := c.2 } })).session) =
      [.uninitialized, .uninitialized, .uninitialized, .uninitialized]
    ∧ (after (exec .init { v12 with snap := { snap with canvasW := 8, canvasH := 4 } })).errLog = 0x04 := by
  decide +kernel

/-- INIT has been accepted with CANVAS 2 x 2. -/
def initTwo : State := { running 5 { snap with canvasW := 2, canvasH := 2 } with pp := true }

/-- CANVAS 2 x 2 (V50): `STATUS` 0x00010002. -/
theorem test_init_two : (after (exec .init initTwo)).statusWord = 0x00010002 := by
  have h : ¬ (Config.lognMax < Nat.log2 initTwo.snap.canvasW.toNat ∨ initTwo.resDraw = false) := by
    have h1 := Config.lognMax_pos
    have h2 : Nat.log2 initTwo.snap.canvasW.toNat = 1 := by decide
    have h3 : initTwo.resDraw = true := rfl
    simp only [h2, h3, reduceCtorEq, or_false]
    omega
  have e : exec .init initTwo
      = .next (State.startSession binary32 (Nat.log2 initTwo.snap.canvasW.toNat) initTwo).complete := by
    show execInit initTwo = _
    unfold execInit Meaning.init
    simp only
    rw [if_neg (by decide), if_neg h]
  rw [e]
  decide +kernel

theorem test_shutdown :
    (after (exec .shutdown { v12 with fbValid := true, session := .steadyState })).statusWord = 0 := by decide +kernel

theorem test_tblBrev :
    (List.range 8).map (after (exec .tblBrev (running 3 snap))).brtEntry = [0, 4, 2, 6, 1, 5, 3, 7] := by
  decide +kernel

/-- `TWT[0] = (1, 0)` (V11, R133): the angle is 0 whatever `pi` is. -/
theorem test_tblTwid : ((after (exec .tblTwid v12)).twtEntry binary32 0).re = num 1 := by
  have ha : ∀ x : Number, Number.mul x (Number.ofNat 0) = Number.zero := fun x => by
    rw [Number.ofNat_zero]
    have h0 : x.val * Number.zero.val = 0 := mul_zero _
    exact Number.ext_val (by rw [Number.mul, h0]; exact Number.result_val (by decide +kernel))
  have hd : Number.div Number.zero (Number.ofNat 2) = Number.zero := by decide +kernel
  show Number.cos (Number.div (Number.mul _ (Number.ofNat 0)) (Number.ofNat 2)) = num 1
  simp only [ha, hd]
  decide +kernel

theorem test_widen :
    specList (after (exec (.widen 0x42 0x00) v12)) .scur 4 = [cpx 1 0, cpx 2 0, cpx 3 0, cpx 4 0] := by decide +kernel

theorem test_center :
    specList (after (exec (.center 0x42 0x40) v12)) .scur 4 = [cpx 1 2, cpx 3 (-4), cpx 0 0, cpx 0 (-5)] := by
  decide +kernel

/-- In place, the destination being the source. -/
theorem test_conj :
    specList (after (exec (.conj 0x40 0x40) v12)) .w0 4 = [cpx 1 (-2), cpx (-3) (-4), cpx 0 0, cpx 0 5] := by
  decide +kernel

theorem test_scale :
    specList (after (exec (.scale 0x42 0x40) v12)) .scur 4
      = [cpx (1 / 4) (1 / 2), cpx (-3 / 4) 1, cpx 0 0, cpx 0 (-5 / 4)] := by decide +kernel

/-- The elements of V12 whose magnitude is rational. -/
theorem test_toMag : (planeList (after (exec (.toMag 0x03 0x40) v12)) .diag 4).tail = [num 5, num 0, num 5] := by
  decide +kernel

/-- `atan2(0, 0) = 0` (V12). -/
theorem test_toPhase : (after (exec (.toPhase 0x03 0x40) v12)).planeElem binary32 .diag 2 = num 0 := by decide +kernel

theorem test_toReal : planeList (after (exec (.toReal 0x03 0x40) v12)) .diag 4 = [num 1, num (-3), num 0, num 0] := by
  decide +kernel

theorem test_copyP : planeList (after (exec (.copyP 0x02 0x00) v12)) .lout 4 = [num 1, num 2, num 3, num 4] := by
  decide +kernel

theorem test_copyS :
    specList (after (exec (.copyS 0x43 0x40) v12)) .sprv 4 = [cpx 1 2, cpx (-3) 4, cpx 0 0, cpx 0 (-5)] := by
  decide +kernel

/-- ZERO clears its operand and leaves another spectrum. -/
theorem test_zero :
    specList (after (exec (.zero 0x44) v12)) .smod 4 = [cpx 0 0, cpx 0 0, cpx 0 0, cpx 0 0]
      ∧ (after (exec (.zero 0x44) v12)).specElem binary32 .w0 1 = cpx (-3) 4 := by decide +kernel

theorem test_add :
    specList (after (exec (.add 0x40 0x40 0x40) v12)) .w0 4 = [cpx 2 4, cpx (-6) 8, cpx 0 0, cpx 0 (-10)] := by
  decide +kernel

theorem test_mulM :
    specList (after (exec (.mulM 0x42 0x40 0x01) v12)) .scur 4 = [cpx 1 2, cpx (-3 / 2) 2, cpx 0 0, cpx 0 0] := by
  decide +kernel

/-- V20: the row 1 2 3 4 becomes 1 3 2 4. -/
theorem test_brevRow :
    specList (after (exec (.brevRow 0x41 0x40) v20)) .w1 4 = [cpx 1 0, cpx 3 0, cpx 2 0, cpx 4 0] := by decide +kernel

/-- R161: rows 0 1 2 3 become 0 2 1 3. -/
theorem test_brevCol :
    let s := { v20 with spectra := [(elemAddr 0x40 0, cpx 1 0), (elemAddr 0x40 4, cpx 2 0),
      (elemAddr 0x40 8, cpx 3 0), (elemAddr 0x40 12, cpx 4 0)] }
    [0, 4, 8, 12].map ((after (exec (.brevCol 0x41 0x40) s)).specElem binary32 .w1)
      = [cpx 1 0, cpx 3 0, cpx 2 0, cpx 4 0] := by decide +kernel

/-- V20, stage 2 on the row 4 -2 6 -2. -/
theorem test_bflyRow :
    specList (after (exec (.bflyRow 0x41 0x40 2)
      { v20 with spectra := specCells .w0 [(4, 0), (-2, 0), (6, 0), (-2, 0)] })) .w1 4
      = [cpx 10 0, cpx (-2) 2, cpx (-2) 0, cpx (-2) (-2)] := by decide +kernel

/-- R163: the column -1, 1 becomes 0, -2. -/
theorem test_bflyCol :
    [0, 2].map ((after (exec (.bflyCol 0x41 0x40 1)
      { v12 with spectra := specCells .w0 [(-1, 0), (3, 0), (1, 0), (-7, 0)] })).specElem binary32 .w1)
      = [cpx 0 0, cpx (-2) 0] := by decide +kernel

/-- V22. -/
theorem test_fftFwd :
    specList (after (exec (.fftFwd 0x42 0x00) v12)) .scur 4 = [cpx 0 0, cpx (-4) 0, cpx (-2) 0, cpx 10 0]
      ∧ (after (exec (.fftFwd 0x42 0x00) v12)).ustep = 7 := by decide +kernel

/-- V24. -/
theorem test_fftInv :
    planeList (after (exec (.fftInv 0x02 0x42)
      { v12 with spectra := specCells .scur [(0, 0), (-4, 0), (-2, 0), (10, 0)] })) .lout 4
      = [num 1, num 2, num 3, num 4] := by decide +kernel

/-- Step 4 of R200 suppresses a weak bin, whose own phase and magnitude scaling stay in force. -/
theorem test_pamp :
    (after (exec (.pamp 0x44 0x42 0x43)
      { v12 with snap := { snap with mthr := num 5, mscale := num 3 },
                 spectra := specCells .scur [(4, 0)] ++ specCells .sprv [(-4, 0)] })).specElem binary32 .smod 0
      = cpx 12 0 := by decide +kernel

/-- The destination of PAMP is none of its sources (V2). -/
theorem test_pamp_alias : (after (exec (.pamp 0x44 0x42 0x44) v12)).lastErr = 5 := by decide +kernel

/-- Two levels with the edge at 1/4: mask 0 at the frequencies 0, 1/4 and 1/2 of a canvas of 4 (worked from R191, R221). -/
theorem test_genMask :
    [10, 9, 8].map ((after (exec (.genMask 0x03 0) (running 2 { snap with levels := 2 }))).planeElem binary32 .diag)
      = [num 1, num (1 / 2), num 0] := by decide +kernel

/-- R228 with one level: the single mask is 1 everywhere (V41), and the bank is valid. -/
theorem test_genFilt :
    planeList (after (exec .genFilt v12)) (.mask 0) 4 = [num 1, num 1, num 1, num 1]
      ∧ (after (exec .genFilt v12)).fbValid = true
      ∧ (after (exec .genFilt v12)).fbKey = ⟨1, num (1 / 8), num (3 / 8)⟩ := by decide +kernel

/-- Program P3, step 2. -/
theorem test_frame_first :
    planeList (after (exec .frame v12)) .lout 4 = [num 1, num 2, num 3, num 4]
      ∧ (after (exec .frame v12)).statusWord = 0x00010004 := by decide +kernel

/-- A steady frame whose bins are all suppressed returns its input, and the magnitudes of its spectrum (P3, R200 step 4). -/
theorem test_frame_steady :
    let s := { v12 with session := .steadyState, snap := { snap with mthr := num 100, showmag := true },
                        planes := planeCells .lin [4, 3, 2, 1] ++ planeCells .lprev [1, 2, 3, 4] }
    planeList (after (exec .frame s)) .lout 4 = [num 4, num 3, num 2, num 1]
      ∧ planeList (after (exec .frame s)) .diag 4 = [num 0, num 4, num 2, num 10]
      ∧ (after (exec .frame s)).ustep = 26 := by decide +kernel

/-! ## Outcomes of V2, `Ready`, `N = 4` -/

theorem test_outcomes_v2 :
    [0x00000004#32, 0x000000FF#32, 0x00000103#32, 0x01000001#32, 0x01404012#32, 0x00424210#32, 0x00000012#32,
      0x00454012#32, 0x00F04012#32, 0x00404020#32, 0x00404122#32, 0x00404022#32, 0x03404122#32, 0x02404122#32,
      0x43444430#32, 0x44424430#32, 0x00424212#32, 0x4444441A#32].map
        (fun w => (after (State.runCurrent binary32 { v20 with cur := w })).lastErr)
      = [3, 3, 3, 3, 3, 3, 3, 3, 3, 5, 3, 3, 3, 0, 5, 5, 0, 0] := by decide +kernel

theorem test_outcomes_uninitialized :
    [0x00404020#32, 0x00000003#32, 0x00000000#32, 0x00404022#32].map
        (fun w => (after (State.runCurrent binary32 { v20 with cur := w, session := .uninitialized })).lastErr)
      = [4, 4, 0, 4] := by decide +kernel

/-- P5, steps 1 and 2: `ERRLOG` accumulates, `STATUS` shows the last error. -/
theorem test_p5 :
    let s1 := after (step (State.reset.withFetchWord 32 0x03))
    let s2 := after (step (s1.withFetchWord 32 0x04))
    s1.statusWord = 0x400 ∧ s1.errLog = 0x10 ∧ s2.statusWord = 0x300 ∧ s2.errLog = 0x18 := by decide +kernel

/-! ## The host port (V51, V52, V53) -/

/-- An idle session of `N = 8` with a window selection. -/
def idle8 (sel idx : Word) : State :=
  { running 3 snap with busy := false, regs := { Regs.reset with hbSel := sel, hbIdx := idx }
                        brt := [(0, 0), (1, 4), (2, 2), (3, 6)] }

theorem test_window_plane : (after ((idle8 0x00 9).hostAccess binary32 (.write 0x68 0x40000000))).planeAt binary32 .lin 1 1 = num 2 := by
  decide +kernel

theorem test_window_spectrum :
    (after (State.hostAccess binary32 (.write 0x6C 0xBF800000)
      (after ((idle8 0x42 0).hostAccess binary32 (.write 0x68 0x3F800000))))).specElem binary32 .scur 0 = cpx 1 (-1) := by decide +kernel

theorem test_window_table :
    (after ((idle8 0xF0 3).hostAccess binary32 (.read 0x68))).rdata = 6
      ∧ (after ((idle8 0xF0 3).hostAccess binary32 (.read 0x6C))).rdata = 0 := by decide +kernel

/-- TWT index 4, a write to a table, LIN index 64, and the imaginary part of a plane. -/
theorem test_window_refused :
    [after ((idle8 0xF1 4).hostAccess binary32 (.read 0x68)), after ((idle8 0xF0 0).hostAccess binary32 (.write 0x68 5)),
      after ((idle8 0x00 64).hostAccess binary32 (.write 0x68 0x3F800000)),
      after ((idle8 0x00 0).hostAccess binary32 (.write 0x6C 0x3F800000))].map State.errLog = [0x80, 0x80, 0x80, 0] := by
  decide +kernel

theorem test_overrun : (after (v12.hostAccess binary32 (.write 0x00 0))).errLog = 0x40 := by decide +kernel

theorem test_status_reset : (after (State.reset.hostAccess binary32 (.read 0x04))).rdata = 0 := by decide +kernel

theorem test_reserved_offset :
    (after (State.reset.hostAccess binary32 (.read 0x1C))).rdata = 0
      ∧ (after (State.reset.hostAccess binary32 (.read 0x18))).rdata = 5 := by decide +kernel

/-! ## Witnesses: concrete states and operands that meet the hypotheses of each statement -/

/-- An idle session of `N = 8` with `LASTERR = 5`. -/
def idle : State := { idle8 0x00 0 with lastErr := 5 }

/-- A running NOP in a session of `N = 2`. -/
def busyNop : State := { v12 with agenda := [.seq] }

theorem witness_DecodeAndEncodeAgree : decode 0x00004419 = .ok (.zero 0x44) ∧ encode (.zero 0x44) = 0x00004419 := by
  decide

theorem witness_WordSelectsAtMostOneRow :
    decode 0x00004419 = .ok (.zero 0x44) ∧ (⟨0xFFFF00FF, 0x19⟩ : OpcodeRow) ∈ opcodeRows
      ∧ OpcodeRow.selects ⟨0xFFFF00FF, 0x19⟩ 0x00004419 = true := by decide

/-- A reserved opcode and a non-zero unused field. -/
theorem witness_WordWithoutRowIsIllegal :
    [0x00000004#32, 0x00000100#32].all (fun w =>
      let s := { v12 with cur := w }
      s.busy && opcodeRows.all fun r => !r.selects s.cur) = true := by decide

theorem witness_StepRunsDecodedCommand :
    (busyNop.busy = true ∧ decode busyNop.cur = .ok .nop ∧ busyNop.agenda = .seq :: [])
      ∧ (v12.busy = true ∧ decode v12.cur = .ok .nop ∧ v12.agenda = [])
      ∧ decodeTableWord 32 0x04002431 = some (.genMask 0x24 4)
      ∧ { idle with agenda := [.host (.read 0x04)] }.agenda = .host (.read 0x04) :: [] := by decide

theorem witness_CmdWriteAcceptsOrOverruns :
    idle.busy = false ∧ v12.busy = true
      ∧ [idle.regs.maxFreq, idle.regs.minFreq, idle.regs.highCut, idle.regs.lowCut, idle.regs.steepness, idle.regs.motionSens,
        idle.regs.phaseScale, idle.regs.magThresh, idle.regs.magScale, idle.regs.edgeEnh].all
          (fun w => (Number.dec? w).isSome) = true := by decide +kernel

theorem witness_AcceptedCommandEnds : v12.busy = true := by decide

/-- A dropped command word, a refused window write and a status read while a command runs. -/
theorem witness_HostCannotDisturbRunningCommand :
    v12.busy = true ∧ v12.hostAccess binary32 (.write 0x00 1) = .next (v12.logError overrunCode)
      ∧ v12.hostAccess binary32 (.write 0x68 0) = .next (v12.logError hostAccCode) := ⟨by decide, rfl, by rfl⟩

theorem witness_ErrorLogIsSticky :
    let s := { v12 with cur := 4, errLog := 0x10 }
    step s = .next (s.abandon .illcmd) ∧ s.agenda.head? ≠ some .reset ∧ s.errLog.getLsbD 4 = true :=
  ⟨rfl, by decide, by decide⟩

/-- A step for each way the session state changes. -/
theorem witness_SessionChangesAsListed :
    SequencerTurn { v12 with cur := 2 } ∧
    (∃ t, step { v12 with agenda := [.reset] } = .next t ∧ t.session = .uninitialized)
      ∧ (∃ t, step { initTwo with cur := 1, resDraw := false } = .next t ∧ t.session = .uninitialized)
      ∧ (∃ t, step { v12 with cur := 2 } = .next t ∧ t.session = .uninitialized)
      ∧ ∃ t, step { v12 with cur := 3 } = .next t ∧ t.session = .steadyState := by
  refine ⟨.inl rfl, ⟨_, rfl, rfl⟩, ⟨State.failInit .unavail { initTwo with cur := 1, resDraw := false }, ?_, rfl⟩, ⟨_, rfl, rfl⟩,
    ⟨_, rfl, rfl⟩⟩
  show execInit { initTwo with cur := 1, resDraw := false } = _
  unfold execInit Meaning.init
  simp only
  rw [if_neg (by decide), if_pos (Or.inr trivial)]

theorem witness_ResetEventRestoresResetValues : { v12 with agenda := [.reset] }.agenda = .reset :: [] := rfl

/-- The first and the last offset of each kind, and a neighbour. -/
theorem witness_RegisterReadsWhatWasWritten :
    (0x0C, false) ∈ rwRegisters ∧ (0x64, false) ∈ rwRegisters
      ∧ (0x20, true) ∈ rwRegisters ∧ (0x44, true) ∈ rwRegisters ∧ isFinitePattern 0x40000000 = true
      ∧ (0x24, true) ∈ rwRegisters ∧ (0x24 : Nat) ≠ 0x20 := by decide

theorem witness_ReservedAndReadOnlyOffsets :
    [0x1C, 0x48, 0x70, 0xFC].all (fun off => decide (off < 256) && off % 4 == 0
      && decide (off ∉ [0x00, 0x04, 0x08, 0x68, 0x6C]) && rwRegisters.all fun r => r.1 != off) = true := by decide

theorem witness_OddAccessesAreRefused :
    ((1 : Nat) < 256 ∧ 1 % 4 ≠ 0) ∧ ((255 : Nat) < 256 ∧ 255 % 4 ≠ 0) ∧ ((0 : Nat) < 256 ∧ 0 % 4 = 0)
      ∧ ((252 : Nat) < 256 ∧ 252 % 4 = 0) ∧ 256 ≤ 256
      ∧ isFinitePattern 0x7F800000 = false ∧ (0x20, true) ∈ rwRegisters ∧ (0x44, true) ∈ rwRegisters
      ∧ (planeOf (selectedId (idle8 0x00 63)) = some .lin
        ∧ Admits (idle8 0x00 63) ((idle8 0x00 63).n * (idle8 0x00 63).n))
      ∧ (spectrumOf (selectedId (idle8 0x44 63)) = some .smod
        ∧ Admits (idle8 0x44 63) ((idle8 0x44 63).n * (idle8 0x44 63).n)) := by
  unfold Admits; decide

theorem witness_StatusFields : idle.busy = false ∧ State.reset.busy = false := by decide

/-- A running command that changes no parity: NOP, and FRAME in `Ready`. -/
theorem witness_StatusWhileBusy :
    v12.busy = true ∧ decode v12.cur = .ok .nop
      ∧ decode { v12 with cur := 3 }.cur = .ok .frame ∧ { v12 with cur := 3 }.session ≠ .steadyState := by decide

/-- The last element of each kind of selection, on a canvas of 8. -/
theorem witness_WindowReadReturnsElement :
    (planeOf (selectedId (idle8 0x00 63)) = some .lin ∧ Admits (idle8 0x00 63) ((idle8 0x00 63).n * (idle8 0x00 63).n))
      ∧ (spectrumOf (selectedId (idle8 0x44 63)) = some .smod
        ∧ Admits (idle8 0x44 63) ((idle8 0x44 63).n * (idle8 0x44 63).n))
      ∧ (selectedId (idle8 0xF0 7) = 0xF0 ∧ Admits (idle8 0xF0 7) (idle8 0xF0 7).n)
      ∧ (selectedId (idle8 0xF1 3) = 0xF1 ∧ Admits (idle8 0xF1 3) ((idle8 0xF1 3).n / 2)) := by
  unfold Admits; decide

/-- The same boundary for writes, and a plane of the filter bank. -/
theorem witness_WindowWriteReplacesOnePart :
    (∃ v, Number.dec? 0x40000000 = some v)
      ∧ (planeOf (selectedId (idle8 0x00 63)) = some .lin
        ∧ Admits (idle8 0x00 63) ((idle8 0x00 63).n * (idle8 0x00 63).n))
      ∧ (planeOf (selectedId (idle8 0x20 0)) = some (.mask 0)
        ∧ Admits (idle8 0x20 0) ((idle8 0x20 0).n * (idle8 0x20 0).n))
      ∧ (spectrumOf (selectedId (idle8 0x42 63)) = some .scur
        ∧ Admits (idle8 0x42 63) ((idle8 0x42 63).n * (idle8 0x42 63).n)) := by
  refine ⟨⟨num 2, by decide +kernel⟩, ?_, ⟨planeOf_mask (i := 0) Config.pyrMax_pos, ?_⟩, ?_⟩
  all_goals unfold Admits; decide

/-- Every reason for a refusal: a running command, no session, an index out of range, an undefined identifier, and for a
write a table. -/
theorem witness_RefusedWindowAccessIsLogged :
    (¬ Admits { idle8 0x00 0 with busy := true } 64) ∧ (¬ Admits { idle8 0x00 0 with session := .uninitialized } 64)
      ∧ (¬ Admits (idle8 0x00 64) ((idle8 0x00 64).n * (idle8 0x00 64).n))
      ∧ (planeOf (selectedId (idle8 0x45 0)) = none ∧ spectrumOf (selectedId (idle8 0x45 0)) = none
        ∧ selectedId (idle8 0x45 0) ≠ 0xF0 ∧ selectedId (idle8 0x45 0) ≠ 0xF1)
      ∧ (planeOf (selectedId (idle8 0xF0 8)) = none ∧ spectrumOf (selectedId (idle8 0xF0 8)) = none
        ∧ ¬ Admits (idle8 0xF0 8) (idle8 0xF0 8).n)
      ∧ (selectedId (idle8 0xF1 4) = 0xF1 ∧ ¬ Admits (idle8 0xF1 4) ((idle8 0xF1 4).n / 2)) := by
  unfold Admits; decide

/-- The states in which INIT has been accepted with a canvas of `w` by `h`. -/
def initState (w h : Word) : State := { State.reset with busy := true, snap := { Params.blank Number.zero with canvasW := w, canvasH := h } }

/-- Not square; below 2; no power of two; above every capacity; the smallest and the largest canvas within capacity;
no resources. -/
theorem witness_InitStartsOrEndsSession :
    ((initState 8 4).snap.canvasW ≠ (initState 8 4).snap.canvasH) ∧ (initState 1 1).snap.canvasW.toNat < 2
      ∧ (∀ k, (initState 6 6).snap.canvasW.toNat ≠ 2 ^ k)
      ∧ ((initState 0x20000 0x20000).snap.canvasW.toNat = 2 ^ 17 ∧ (initState 0x20000 0x20000).snap.canvasH.toNat = 2 ^ 17
        ∧ Config.lognMax < 17)
      ∧ ((initState 2 2).snap.canvasW.toNat = 2 ^ 1 ∧ (initState 2 2).snap.canvasH.toNat = 2 ^ 1
        ∧ 1 ≤ Config.lognMax ∧ (initState 2 2).resDraw = true)
      ∧ ((initState (BitVec.ofNat 32 (2 ^ Config.lognMax)) 0).snap.canvasW.toNat = 2 ^ Config.lognMax)
      ∧ { initState 2 2 with resDraw := false }.resDraw = false := by
  refine ⟨by decide, by decide, ?_, ⟨by decide, by decide, Nat.lt_succ_of_le Config.lognMax_le⟩,
    ⟨by decide, by decide, Config.lognMax_pos, rfl⟩, ?_, rfl⟩
  · intro k h
    have h6 : (initState 6 6).snap.canvasW.toNat = 6 := by decide
    rw [h6] at h
    rcases Nat.lt_or_ge k 3 with hk | hk
    · interval_cases k <;> omega
    · have := Nat.pow_le_pow_right (n := 2) (by omega) hk
      omega
  · show (BitVec.ofNat 32 (2 ^ Config.lognMax)).toNat = _
    rw [BitVec.toNat_ofNat]
    exact Nat.mod_eq_of_lt (Nat.pow_lt_pow_right (by omega) (by have := Config.lognMax_le; omega))

theorem witness_TableCommandsWriteTables :
    v12.session ≠ .uninitialized ∧ 1 ≤ v12.logn.val ∧ (1 : Nat) < v12.n ∧ (0 : Nat) < v12.n / 2 := by decide

/-- Operands of every kind in a session: the hypotheses of the statements on element-wise commands, transforms and PAMP. -/
theorem witness_operands :
    planeOf 0x00 = some .lin ∧ planeOf 0x03 = some .diag ∧ planeOf 0x20 = some (.mask 0)
      ∧ spectrumOf 0x40 = some .w0 ∧ spectrumOf 0x41 = some .w1 ∧ spectrumOf 0x42 = some .scur
      ∧ spectrumOf 0x60 = some (.bcur 0) ∧ v12.session ≠ .uninitialized :=
  ⟨by decide, by decide, planeOf_mask (i := 0) Config.pyrMax_pos, by decide, by decide, by decide,
    spectrumOf_bcur (i := 0) Config.pyrMax_pos, by decide⟩

/-- The two sides of `DecodeOnlyErrors`. -/
theorem witness_DecodeOnlyErrors :
    (Instr.conj 0x40 0xF0).kindsOk = false ∧ (Instr.conj 0x40 0x42).kindsOk = true
      ∧ State.reset.session = .uninitialized := by decide

theorem witness_WidenSetsImaginaryZero :
    spectrumOf 0x42 = some .scur ∧ planeOf 0x00 = some .lin ∧ v12.session ≠ .uninitialized := by decide

theorem witness_CenterAndConjNegate :
    spectrumOf 0x42 = some .scur ∧ spectrumOf 0x40 = some .w0 ∧ v12.session ≠ .uninitialized := by decide

theorem witness_ScaleDividesByElementCount :
    spectrumOf 0x42 = some .scur ∧ spectrumOf 0x40 = some .w0 ∧ v12.session ≠ .uninitialized := by decide

theorem witness_ToMagWritesMagnitude :
    planeOf 0x20 = some (.mask 0) ∧ spectrumOf 0x40 = some .w0 ∧ v12.session ≠ .uninitialized :=
  ⟨planeOf_mask (i := 0) Config.pyrMax_pos, by decide, by decide⟩

/-- Element 2 of the source has imaginary part 0. -/
theorem witness_ToPhaseWritesPhase :
    planeOf 0x03 = some .diag ∧ spectrumOf 0x40 = some .w0 ∧ v12.session ≠ .uninitialized
      ∧ (0 : Nat) < v12.n ∧ (1 : Nat) < v12.n ∧ (v12.specAt binary32 .w0 0 1).im.val = 0 := by decide +kernel

theorem witness_CopiesAreElementwise :
    planeOf 0x01 = some .lprev ∧ planeOf 0x00 = some .lin ∧ spectrumOf 0x42 = some .scur ∧ spectrumOf 0x40 = some .w0
      ∧ v12.session ≠ .uninitialized := by decide

theorem witness_ZeroClearsAndAddSums :
    spectrumOf 0x44 = some .smod ∧ spectrumOf 0x40 = some .w0 ∧ v12.session ≠ .uninitialized := by decide

theorem witness_MulMScalesByMask :
    spectrumOf 0x42 = some .scur ∧ spectrumOf 0x40 = some .w0 ∧ planeOf 0x01 = some .lprev
      ∧ v12.session ≠ .uninitialized := by decide

theorem witness_BitReversalPermutes :
    spectrumOf 0x41 = some .w1 ∧ spectrumOf 0x40 = some .w0 ∧ v20.session ≠ .uninitialized ∧ (0x41 : Byte) ≠ 0x40 := by
  decide

/-- Both ends of the stage range on a canvas of 4, and the values just outside it. -/
theorem witness_ButterflyPasses :
    spectrumOf 0x41 = some .w1 ∧ spectrumOf 0x40 = some .w0 ∧ v20.session ≠ .uninitialized ∧ (0x41 : Byte) ≠ 0x40
      ∧ (1 ≤ (1 : Byte).toNat ∧ (1 : Byte).toNat ≤ v20.logn.val) ∧ (1 ≤ (2 : Byte).toNat ∧ (2 : Byte).toNat ≤ v20.logn.val)
      ∧ (0 : Byte).toNat = 0 ∧ v20.logn.val < (3 : Byte).toNat := by decide

theorem witness_FftFwdIsItsExpansion :
    spectrumOf 0x42 = some .scur ∧ planeOf 0x00 = some .lin ∧ v12.session ≠ .uninitialized := by decide

theorem witness_FftInvIsItsExpansion :
    planeOf 0x02 = some .lout ∧ spectrumOf 0x42 = some .scur ∧ v12.session ≠ .uninitialized := by decide

theorem witness_PampRotatesBins :
    spectrumOf 0x44 = some .smod ∧ spectrumOf 0x42 = some .scur ∧ spectrumOf 0x43 = some .sprv
      ∧ v12.session ≠ .uninitialized ∧ (0x44 : Byte) ≠ 0x42 ∧ (0x44 : Byte) ≠ 0x43 := by decide

/-- The largest level below the level count, and the level count itself. -/
theorem witness_GenMaskWritesBandMask :
    planeOf 0x03 = some .diag ∧ planeOf 0x20 = some (.mask 0) ∧ v12.session ≠ .uninitialized
      ∧ (0 : Byte).toNat < v12.snap.levels ∧ v12.snap.levels ≤ (1 : Byte).toNat :=
  ⟨by decide, planeOf_mask (i := 0) Config.pyrMax_pos, by decide, by decide, by decide⟩

/-- The smallest and the largest level count. -/
theorem witness_GenFiltIsItsExpansion :
    v12.session ≠ .uninitialized ∧ (1 ≤ v12.snap.levels ∧ v12.snap.levels ≤ Config.pyrMax)
      ∧ (1 ≤ (running 1 { snap with levels := Config.pyrMax }).snap.levels
        ∧ (running 1 { snap with levels := Config.pyrMax }).snap.levels ≤ Config.pyrMax) :=
  ⟨by decide, ⟨by decide, Config.pyrMax_pos⟩, Config.pyrMax_pos, le_refl _⟩

theorem witness_FirstFramePassesThrough : v12.session = .ready ∧ (1 : Nat) < v12.n := by decide

theorem witness_SteadyFrameSingleBand :
    { v12 with session := .steadyState }.session = .steadyState ∧ v12.snap.pyr = false := by decide

/-- With a stale bank and with a valid one. -/
theorem witness_SteadyFramePyramid :
    let s := { v12 with session := .steadyState, snap := { snap with pyr := true } }
    let u := { s with fbValid := true, fbKey := ⟨1, num (1 / 8), num (3 / 8)⟩ }
    s.session = .steadyState ∧ s.snap.pyr = true ∧ 1 ≤ s.snap.levels ∧ s.snap.levels ≤ Config.pyrMax
      ∧ s.fbValid = false ∧ u.fbValid = true ∧ u.fbKey = ⟨u.snap.levels, u.snap.fmin, u.snap.fmax⟩ :=
  ⟨rfl, rfl, le_refl _, Config.pyrMax_pos, rfl, rfl, rfl⟩

/-- Memories with elements in them, and a running WIDEN W0, LIN. -/
theorem witness_StepKeepsMemoriesCanonical :
    let s := { v12 with cur := 0x00004010 }
    CanonicalMemories s ∧ ∃ t, step s = .next t ∧ t.spectra.length = 4 := by
  unfold CanonicalMemories
  exact ⟨by decide, _, rfl, by decide⟩

/-- A session of `N = 2` whose tables hold their content after TBL.BREV and TBL.TWID. -/
def sound : State := { (State.fillTwt binary32 (State.fillBrt (running 1 snap))) with cur := 3 }

theorem witness_StepKeepsSessionTables :
    SessionTables binary32 sound ∧ sound.session ≠ .uninitialized ∧ ∃ t, step sound = .next t := by
  exact ⟨sessionTables_fill binary32 (s := running 1 snap) (by decide) Config.lognMax_pos, by decide, ⟨_, rfl⟩⟩

/-- A valid bank of one level, and a running command. -/
theorem witness_StepKeepsBankHonest :
    let s : State := (running 1 snap).genFilt binary32
    RunningSound s ∧ BankHonest binary32 s ∧ s.busy = true ∧ s.fbValid = true ∧ ∃ t, step s = .next t := by
  refine ⟨fun _ => ⟨by decide, Config.pyrMax_pos, rfl⟩, fun _ => ⟨by decide, Config.pyrMax_pos, ?_⟩, rfl, rfl, ⟨_, rfl⟩⟩
  intro i hi u v hu hv
  have h0 : i = 0 := Nat.lt_one_iff.mp hi
  subst h0
  show ((running 1 snap).genMask binary32 (.mask (levelIndex 0)) 0).planeAt binary32 (.mask (levelIndex 0)) u v = _
  unfold State.genMask
  rw [State.planeAt_dispatchP binary32 (running 1 snap) _ _ _ hu hv, if_pos rfl]
  rfl

theorem witness_StepKeepsFlagsLegal :
    let s := { idle with errLog := 0x80 }
    FlagsLegal s ∧ step s = .next s := ⟨⟨rfl, by decide, by decide +kernel⟩, rfl⟩

/-- A reference instance, with `CFG_EPS = 1/8`. -/
noncomputable def reals : NumSystem ℝ ℝ := realSystem (1 / 8) (fun _ _ _ _ => 0) fun _ _ _ => 0

theorem isReference_reals : IsReference reals :=
  isReference_realSystem _ (by norm_num) (le_refl _) fun _ _ _ _ => le_refl _

/-- A session of `N = 2` over the reals, with its tables; `LIN` is 1 at `(0, 0)` and 0 elsewhere. -/
noncomputable def realSession : State ℝ ℝ :=
  State.fillTwt reals (State.fillBrt
    { State.initial 0 0 realResetRegs with
      session := .ready, logn := 1
      planes := [(elemAddr 0 0, 1), (elemAddr 0 1, 0), (elemAddr 0 2, 0), (elemAddr 0 3, 0)] })

theorem sessionTables_realSession : SessionTables reals realSession :=
  sessionTables_fill reals (s := { State.initial 0 0 realResetRegs with
    session := .ready, logn := 1
    planes := [(elemAddr 0 0, 1), (elemAddr 0 1, 0), (elemAddr 0 2, 0), (elemAddr 0 3, 0)] })
    (by decide) Config.lognMax_pos

/-- Sums, differences, products and quotients that can be stored; a divisor that is not zero. -/
theorem witness_ArithmeticIsExactWhereStorable :
    storable ((num 1).val + (num (1 / 4)).val) = true ∧ storable ((num 1).val - (num (1 / 4)).val) = true
      ∧ storable ((num 3).val * (num (1 / 4)).val) = true ∧ (num (1 / 4)).val ≠ 0
      ∧ storable ((num 3).val / (num (1 / 4)).val) = true := by decide +kernel

theorem witness_ElementaryFixedPoints :
    IsReference reals ∧ 0 ≤ (num 25).val ∧ (num 25).val = (num 5).val * (num 5).val ∧ 0 ≤ (num 5).val :=
  ⟨isReference_reals, by decide +kernel⟩

theorem witness_EncodingOfNumbersRoundTrips :
    isFinitePattern 0x7F7FFFFF = true ∧ (0x7F7FFFFF : Word) ≠ 0x80000000 ∧ isFinitePattern 0x80000000 = true := by decide

theorem witness_ReverseBitsIsInvolution : 6 < 2 ^ 3 ∧ (0 : Nat) < 2 ^ 0 ∧ (2 : Nat) < 3 := by decide

theorem witness_EffectiveParametersInRange : (0 : ℝ) < 1 / 8 ∧ (1 / 8 : ℝ) ≤ 1 / 8 := by norm_num

theorem witness_SmoothstepShape :
    (0 : ℝ) ≤ 0 ∧ ((0 : ℝ) < 1 / 4 ∧ (1 / 4 : ℝ) < 1) ∧ (1 : ℝ) ≤ 1 ∧ (1 / 4 : ℝ) ≤ 3 / 4 := by norm_num

/-- A point at each end of the band, and one between the ramps, for cutoffs 0.05 and 0.4 and steepness 3 (V31). -/
theorem witness_GateIsBandPass :
    (0.05 : ℝ) < 0.4 ∧ (0 : ℝ) < 3 ∧ (0.05 : ℝ) ≤ 0.05 ∧ (0.4 : ℝ) ≤ 0.4 ∧ (1 : ℝ) ≤ 3
      ∧ (0.05 : ℝ) + (0.4 - 0.05) / (2 * 3) ≤ 0.2 ∧ (0.2 : ℝ) ≤ 0.4 - (0.4 - 0.05) / (2 * 3) := by norm_num

theorem witness_WrappedPhaseInRange : -(2 * Real.pi) < -Real.pi ∧ -Real.pi < 2 * Real.pi := by
  have := Real.pi_pos
  constructor <;> linarith

/-- One level; five levels with an inner edge at each end of its range. -/
theorem witness_BandMasksSumToOne :
    (1 : Nat) ≤ 1 ∧ ((1 : Nat) ≤ 5 ∧ 0 < 1 ∧ 1 < 5 ∧ 4 < 5) ∧ (0.05 : ℝ) < 0.45 := by norm_num

/-- The parameters of the reset configuration, with `edges = 0`. -/
theorem witness_AmplifierKeepsMagnitude :
    ∃ P : Params ℝ, P.edges = false ∧ P.mscale = 1 :=
  ⟨{ canvasW := 0, canvasH := 0, levels := 5, fmin := 0.05, fmax := 0.45, lo := 0.05, hi := 0.4, steep := 3, sens := 1
     pscale := 1, mthr := 0, mscale := 1, eenh := 0, pyr := false, bpen := false, edges := false, showmag := false
     showph := false }, rfl, rfl⟩

theorem witness_PassesComputeTransform :
    ((0 : Nat) < 2 ^ 0 ∧ (3 : Nat) < 2 ^ 2) ∧ IsReference reals ∧ realSession.session ≠ .uninitialized
      ∧ SessionTables reals realSession ∧ 1 < realSession.n :=
  ⟨by decide, isReference_reals, by decide, sessionTables_realSession, by decide⟩

/-- The plane of `realSession` meets the hypothesis of R173 (c). -/
theorem witness_ForwardTransformOverReals :
    IsReference reals ∧ spectrumOf 0x42 = some .scur ∧ planeOf 0x00 = some .lin ∧ realSession.session ≠ .uninitialized
      ∧ SessionTables reals realSession ∧ (0 < realSession.n ∧ 1 < realSession.n)
      ∧ ∀ x y, x < realSession.n → y < realSession.n →
        realSession.planeAt reals .lin x y = if x = 0 ∧ y = 0 then 1 else 0 := by
  refine ⟨isReference_reals, by decide, by decide, by decide, sessionTables_realSession, by decide, ?_⟩
  intro x y hx hy
  replace hx : x < 2 := hx
  replace hy : y < 2 := hy
  interval_cases x <;> interval_cases y <;> rfl

theorem witness_InverseTransformOverReals :
    IsReference reals ∧ spectrumOf 0x42 = some .scur ∧ planeOf 0x00 = some .lin ∧ planeOf 0x02 = some .lout
      ∧ realSession.session ≠ .uninitialized ∧ SessionTables reals realSession ∧ 1 < realSession.n :=
  ⟨isReference_reals, by decide, by decide, by decide, by decide, sessionTables_realSession, by decide⟩

/-- A reference instance, and the configurations it holds at reset; its `TOL` is 0. -/
theorem witness_ReferenceIsAcceptable :
    IsReference reals ∧ reals.dec reals.resetRegs.minFreq = some 0.05 ∧ reals.dec reals.resetRegs.maxFreq = some 0.45
      ∧ reals.dec reals.resetRegs.lowCut = some 0.05 ∧ reals.dec reals.resetRegs.highCut = some 0.4
      ∧ reals.dec reals.resetRegs.steepness = some 3 ∧ |id (0.02 : ℝ) - 0.02| ≤ reals.tol
      ∧ |id (0.2 : ℝ) - 0.2| ≤ reals.tol :=
  ⟨isReference_reals, rfl, rfl, rfl, rfl, rfl, by simp [reals, realSystem], by simp [reals, realSystem]⟩

/-- `realSession` with a window selection. -/
noncomputable def realWindow (sel idx : Word) : State ℝ ℝ :=
  { realSession with regs := { realResetRegs with hbSel := sel, hbIdx := idx } }

/-- The last element, entry and factor of a plane, a spectrum and the tables of `N = 2` over the reals (R76 of 20). -/
theorem witness_WindowReadReturnsElement_reals :
    IsReference reals
      ∧ (planeOf (selectedId (realWindow 0x00 3)) = some .lin ∧ Admits (realWindow 0x00 3) ((realWindow 0x00 3).n * (realWindow 0x00 3).n))
      ∧ (spectrumOf (selectedId (realWindow 0x44 3)) = some .smod
        ∧ Admits (realWindow 0x44 3) ((realWindow 0x44 3).n * (realWindow 0x44 3).n))
      ∧ (selectedId (realWindow 0xF0 1) = 0xF0 ∧ Admits (realWindow 0xF0 1) (realWindow 0xF0 1).n
        ∧ (realWindow 0xF0 1).brtEntry (realWindow 0xF0 1).regs.hbIdx.toNat < 2 ^ 32)
      ∧ (selectedId (realWindow 0xF1 0) = 0xF1 ∧ Admits (realWindow 0xF1 0) ((realWindow 0xF1 0).n / 2)) := by
  unfold Admits; exact ⟨isReference_reals, by decide, by decide, by decide, by decide⟩

/-- The same boundary for writes. -/
theorem witness_WindowWriteReplacesOnePart_reals :
    IsReference reals
      ∧ (planeOf (selectedId (realWindow 0x00 3)) = some .lin ∧ Admits (realWindow 0x00 3) ((realWindow 0x00 3).n * (realWindow 0x00 3).n))
      ∧ (spectrumOf (selectedId (realWindow 0x44 3)) = some .smod
        ∧ Admits (realWindow 0x44 3) ((realWindow 0x44 3).n * (realWindow 0x44 3).n)) := by
  unfold Admits; exact ⟨isReference_reals, by decide, by decide⟩

/-- A numeric register, and a word register with the largest word. -/
theorem witness_RegisterReadsWhatWasWritten_reals :
    IsReference reals ∧ (0x20, true) ∈ rwRegisters ∧ (0x0C, false) ∈ rwRegisters
      ∧ ∃ w : Word, (4294967295 : ℝ) = w.toNat :=
  ⟨isReference_reals, by decide, by decide, 0xFFFFFFFF#32, by norm_num⟩

/-- Over the reals a real number written to an element is what the window then reads (R75 of 20). -/
theorem test_window_carries_reals (v : ℝ) :
    ∃ t, (realWindow 0x00 3).hostAccess reals (.write 0x68 v) = .next t
      ∧ t.hostAccess reals (.read 0x68) = .next { t with rdata := v } :=
  ⟨_, rfl, rfl⟩

end Sys2Proof.Tests
end

section
/-! SUPPORT. The finite Fourier transforms `transform` and `transform2` of R166 of 41 over the complex numbers: the doubling step
that one butterfly pass computes, the inversion formula and the energy identity. -/

namespace Sys2Proof.Machine

/-! ## The unit circle -/

/-- The factor `exp(-2*pi*i*q)` of a transform's term. -/
noncomputable def wave (q : ℂ) : ℂ := Complex.exp (-2 * Real.pi * Complex.I * q)

theorem transform_eq_sum_wave (n : Nat) (z : Nat → ℂ) (u : Nat) :
    transform n z u = ∑ x ∈ Finset.range n, z x * wave (u * x / n) := rfl

theorem wave_add (p q : ℂ) : wave (p + q) = wave p * wave q := by
  rw [wave, mul_add, Complex.exp_add]; rfl

@[simp] theorem wave_natCast (k : Nat) : wave k = 1 :=
  Complex.exp_eq_one_iff.mpr ⟨-k, by push_cast; ring⟩

theorem wave_half : wave (1 / 2) = -1 := by
  rw [wave, show (-2 * Real.pi * Complex.I * (1 / 2) : ℂ) = -(Real.pi * Complex.I) by ring, Complex.exp_neg,
    Complex.exp_pi_mul_I]
  norm_num

theorem conj_wave (q : ℂ) : (starRingEnd ℂ) (wave q) = wave (-(starRingEnd ℂ) q) := by
  rw [wave, ← Complex.exp_conj, wave]
  simp only [map_mul, map_neg, Complex.conj_ofReal, Complex.conj_I, Complex.conj_ofNat]
  ring_nf

/-- Over `0, ..., n-1` the waves of different frequencies are orthogonal. -/
theorem sum_wave_mul_wave {n x y : Nat} (hx : x < n) (hy : y < n) :
    ∑ u ∈ Finset.range n, wave (u * x / n) * wave (-(u * y / n)) = if x = y then (n : ℂ) else 0 := by
  have hn : n ≠ 0 := by omega
  have hζ := Complex.isPrimitiveRoot_exp n hn
  set ζ := Complex.exp (2 * Real.pi * Complex.I / n) with hdef
  have hζ0 : ζ ≠ 0 := Complex.exp_ne_zero _
  have hterm (u : Nat) : wave (u * x / n) * wave (-(u * y / n)) = (ζ ^ y / ζ ^ x) ^ u := by
    rw [← wave_add, wave, hdef, ← Complex.exp_nat_mul, ← Complex.exp_nat_mul, ← Complex.exp_sub, ← Complex.exp_nat_mul]
    congr 1
    ring
  simp only [hterm]
  split_ifs with hxy
  · subst hxy
    simp [div_self (pow_ne_zero x hζ0)]
  · have hne : ζ ^ y / ζ ^ x ≠ 1 := fun h =>
      hxy (hζ.pow_inj hx hy ((div_eq_one_iff_eq (pow_ne_zero x hζ0)).mp h).symm)
    have hone : (ζ ^ y / ζ ^ x) ^ n = 1 := by
      rw [div_pow, ← pow_mul, ← pow_mul, mul_comm y, mul_comm x, pow_mul, pow_mul, hζ.pow_eq_one, one_pow, one_pow, div_one]
    have hsum := geom_sum_mul (ζ ^ y / ζ ^ x) n
    rw [hone, sub_self] at hsum
    exact (mul_eq_zero.mp hsum).resolve_right (sub_ne_zero.mpr hne)

/-! ## One line -/

theorem transform_congr {n : Nat} {z w : Nat → ℂ} (h : ∀ x, x < n → z x = w x) (u : Nat) :
    transform n z u = transform n w u :=
  Finset.sum_congr rfl fun x hx => by rw [h x (Finset.mem_range.mp hx)]

/-- A transform of even length from those of the even and the odd samples. -/
theorem transform_double (h : Nat) (z : Nat → ℂ) (u : Nat) :
    transform (2 * h) z u
      = transform h (fun m => z (2 * m)) u + wave (u / (2 * h : Nat)) * transform h (fun m => z (2 * m + 1)) u := by
  rcases Nat.eq_zero_or_pos h with rfl | hh
  · simp [transform]
  have hsplit (f : Nat → ℂ) : ∀ k, ∑ x ∈ Finset.range (2 * k), f x
      = ∑ m ∈ Finset.range k, f (2 * m) + ∑ m ∈ Finset.range k, f (2 * m + 1) := fun k => by
    induction k with
    | zero => simp
    | succ k ih => rw [Nat.mul_succ, Finset.sum_range_succ, Finset.sum_range_succ, ih]; simp only [Finset.sum_range_succ]; ring
  have hh' : (h : ℂ) ≠ 0 := Nat.cast_ne_zero.mpr hh.ne'
  simp only [transform_eq_sum_wave, hsplit, Finset.mul_sum]
  congr 1 <;> refine Finset.sum_congr rfl fun m _ => ?_
  · congr 2
    push_cast
    field_simp
  · have hangle : (u * (2 * m + 1 : Nat) / (2 * h : Nat) : ℂ) = u / (2 * h : Nat) + u * m / h := by
      push_cast; field_simp; ring
    rw [hangle, wave_add]
    ring

theorem transform_add_length (h : Nat) (z : Nat → ℂ) (u : Nat) : transform h z (u + h) = transform h z u := by
  refine Finset.sum_congr rfl fun x hx => ?_
  have hh : (h : ℂ) ≠ 0 := Nat.cast_ne_zero.mpr (by have := Finset.mem_range.mp hx; omega)
  congr 1
  change wave _ = wave _
  rw [show (((u + h : Nat) : ℂ) * x / h) = u * x / h + x by push_cast; field_simp, wave_add, wave_natCast, mul_one]

/-- The other half of the doubled transform: the same two transforms, subtracted. -/
theorem transform_double_add (h : Nat) (hh : 0 < h) (z : Nat → ℂ) (u : Nat) :
    transform (2 * h) z (u + h)
      = transform h (fun m => z (2 * m)) u - wave (u / (2 * h : Nat)) * transform h (fun m => z (2 * m + 1)) u := by
  have hh' : (h : ℂ) ≠ 0 := Nat.cast_ne_zero.mpr hh.ne'
  have hwave : wave (((u + h : Nat) : ℂ) / (2 * h : Nat)) = -wave (u / (2 * h : Nat)) := by
    rw [show ((u + h : Nat) : ℂ) / (2 * h : Nat) = u / (2 * h : Nat) + 1 / 2 by push_cast; field_simp, wave_add, wave_half,
      mul_neg_one]
  rw [transform_double, transform_add_length, transform_add_length, hwave]
  ring

/-- The inversion formula of the transform. -/
theorem sum_transform_mul_wave {n : Nat} (z : Nat → ℂ) {y : Nat} (hy : y < n) :
    ∑ u ∈ Finset.range n, transform n z u * wave (-(u * y / n)) = n * z y := by
  calc ∑ u ∈ Finset.range n, transform n z u * wave (-(u * y / n))
      = ∑ u ∈ Finset.range n, ∑ x ∈ Finset.range n, z x * (wave (u * x / n) * wave (-(u * y / n))) := by
        simp only [transform_eq_sum_wave, Finset.sum_mul, mul_assoc]
    _ = ∑ x ∈ Finset.range n, z x * ∑ u ∈ Finset.range n, wave (u * x / n) * wave (-(u * y / n)) := by
        rw [Finset.sum_comm]; simp only [Finset.mul_sum]
    _ = ∑ x ∈ Finset.range n, z x * if x = y then (n : ℂ) else 0 :=
        Finset.sum_congr rfl fun x hx => by rw [sum_wave_mul_wave (Finset.mem_range.mp hx) hy]
    _ = n * z y := by
        simp [hy, mul_comm]

/-- The conjugate of a transform is the sum with the inverse factors. -/
theorem conj_transform (n : Nat) (z : Nat → ℂ) (u : Nat) :
    (starRingEnd ℂ) (transform n z u) = ∑ x ∈ Finset.range n, (starRingEnd ℂ) (z x) * wave (-(u * x / n)) := by
  simp only [transform_eq_sum_wave, map_sum, map_mul, conj_wave, map_div₀, map_natCast]

/-- Conjugate, transform, conjugate: the inverse of the transform, times `n` (R172 of 41). -/
theorem conj_transform_conj_transform {n : Nat} (z : Nat → ℂ) {x : Nat} (hx : x < n) :
    (starRingEnd ℂ) (transform n (fun u => (starRingEnd ℂ) (transform n z u)) x) = n * z x := by
  rw [conj_transform, ← sum_transform_mul_wave z hx]
  exact Finset.sum_congr rfl fun u _ => by rw [Complex.conj_conj, mul_comm (x : ℂ)]

/-- The energy of a line's transform (R173 (b) of 41). -/
theorem sum_normSq_transform (n : Nat) (z : Nat → ℂ) :
    ∑ u ∈ Finset.range n, Complex.normSq (transform n z u) = n * ∑ x ∈ Finset.range n, Complex.normSq (z x) := by
  apply Complex.ofReal_injective
  push_cast
  simp only [← Complex.mul_conj]
  calc ∑ u ∈ Finset.range n, transform n z u * (starRingEnd ℂ) (transform n z u)
      = ∑ u ∈ Finset.range n, ∑ x ∈ Finset.range n,
          (starRingEnd ℂ) (z x) * (transform n z u * wave (-(u * x / n))) := by
        simp only [conj_transform, Finset.mul_sum, mul_left_comm]
    _ = ∑ x ∈ Finset.range n, (starRingEnd ℂ) (z x) * ∑ u ∈ Finset.range n, transform n z u * wave (-(u * x / n)) := by
        rw [Finset.sum_comm]; simp only [Finset.mul_sum]
    _ = n * ∑ x ∈ Finset.range n, z x * (starRingEnd ℂ) (z x) := by
        rw [Finset.mul_sum]
        exact Finset.sum_congr rfl fun x hx => by rw [sum_transform_mul_wave z (Finset.mem_range.mp hx)]; ring

/-! ## The plane -/

/-- The two-dimensional transform is the transform of every row, then of every column. -/
theorem transform2_eq_transform (n : Nat) (a : Nat → Nat → ℂ) (u v : Nat) :
    transform2 n a u v = transform n (fun y => transform n (fun x => a x y) u) v := by
  simp only [transform2, transform_eq_sum_wave, Finset.sum_mul]
  refine Finset.sum_congr rfl fun y _ => Finset.sum_congr rfl fun x _ => ?_
  rw [mul_assoc (a x y), ← wave_add, ← add_div]; rfl

theorem transform2_congr {n : Nat} {a b : Nat → Nat → ℂ} (h : ∀ x y, x < n → y < n → a x y = b x y) (u v : Nat) :
    transform2 n a u v = transform2 n b u v :=
  Finset.sum_congr rfl fun y hy => Finset.sum_congr rfl fun x hx => by
    rw [h x y (Finset.mem_range.mp hx) (Finset.mem_range.mp hy)]

/-- The order of the axes does not matter. -/
theorem transform2_eq_transform_columns (n : Nat) (a : Nat → Nat → ℂ) (u v : Nat) :
    transform2 n a u v = transform n (fun x => transform n (fun y => a x y) v) u := by
  rw [transform2, Finset.sum_comm, ← transform2_eq_transform n (fun y x => a x y) v u]
  refine Finset.sum_congr rfl fun y _ => Finset.sum_congr rfl fun x _ => ?_
  rw [add_comm (u * _ : ℂ)]

/-- Conjugate, transform, conjugate: the inverse of the two-dimensional transform, times `n*n` (R172, R174 of 41). -/
theorem conj_transform2_conj_transform2 {n : Nat} (a : Nat → Nat → ℂ) {x y : Nat} (hx : x < n) (hy : y < n) :
    (starRingEnd ℂ) (transform2 n (fun u v => (starRingEnd ℂ) (transform2 n a u v)) x y) = (n * n : ℂ) * a x y := by
  have hcolumns (u : Nat) : transform n (fun v => (starRingEnd ℂ) (transform2 n a u v)) y
      = n * (starRingEnd ℂ) (transform n (fun x => a x y) u) := by
    have h := conj_transform_conj_transform (fun y => transform n (fun x => a x y) u) hy
    simp only [← transform2_eq_transform] at h
    rw [← Complex.conj_conj (transform _ _ _), h, map_mul, map_natCast]
  have hpull : transform n (fun u => n * (starRingEnd ℂ) (transform n (fun x => a x y) u)) x
      = n * transform n (fun u => (starRingEnd ℂ) (transform n (fun x => a x y) u)) x := by
    simp only [transform_eq_sum_wave, Finset.mul_sum, mul_assoc]
  rw [transform2_eq_transform_columns]
  simp only [hcolumns]
  rw [hpull, map_mul, conj_transform_conj_transform (fun x => a x y) hx, map_natCast, mul_assoc]

/-- The energy of a plane's transform (R173 (b) of 41). -/
theorem sum_normSq_transform2 (n : Nat) (a : Nat → Nat → ℂ) :
    ∑ v ∈ Finset.range n, ∑ u ∈ Finset.range n, Complex.normSq (transform2 n a u v)
      = (n * n : Nat) * ∑ y ∈ Finset.range n, ∑ x ∈ Finset.range n, Complex.normSq (a x y) := by
  rw [Finset.sum_comm]
  simp only [transform2_eq_transform, sum_normSq_transform]
  rw [← Finset.mul_sum, Finset.sum_comm]
  simp only [sum_normSq_transform]
  rw [← Finset.mul_sum, ← mul_assoc, Nat.cast_mul]

end Sys2Proof.Machine
end

section
/-! SUPPORT. The lanes of the transform over the reals: complex arithmetic of the record, the twiddle table, the bit reversal
(R131, R133 of 40), and that the bit-reversal permute followed by the butterfly passes is `transform` (R166 of 41). -/

namespace Sys2Proof.Machine

/-! ## The record of the reals (R6, R14 of 00) -/

@[simp] theorem realNumerics_add (x y : ℝ) : realNumerics.add x y = x + y := rfl

@[simp] theorem realNumerics_sub (x y : ℝ) : realNumerics.sub x y = x - y := rfl

@[simp] theorem realNumerics_mul (x y : ℝ) : realNumerics.mul x y = x * y := rfl

@[simp] theorem realNumerics_div (x y : ℝ) : realNumerics.div x y = x / y := rfl

@[simp] theorem realNumerics_neg (x : ℝ) : realNumerics.neg x = -x := rfl

@[simp] theorem realNumerics_sqrt (x : ℝ) : realNumerics.sqrt x = Real.sqrt x := rfl

@[simp] theorem realNumerics_atan2 (i r : ℝ) : realNumerics.atan2 i r = Complex.arg ⟨r, i⟩ := rfl

@[simp] theorem realNumerics_cos (x : ℝ) : realNumerics.cos x = Real.cos x := rfl

@[simp] theorem realNumerics_sin (x : ℝ) : realNumerics.sin x = Real.sin x := rfl

@[simp] theorem realNumerics_ofNat (n : Nat) : realNumerics.ofNat n = n := rfl

@[simp] theorem realNumerics_lt (x y : ℝ) : realNumerics.lt x y = decide (x < y) := rfl

/-- `pi` by the fixed point of R14. -/
@[simp] theorem realNumerics_pi : realNumerics.pi = Real.pi := by
  rw [Numerics.pi, realNumerics_atan2, realNumerics_ofNat, realNumerics_ofNat, realNumerics_neg, Nat.cast_zero, Nat.cast_one]
  exact Complex.arg_ofReal_of_neg (by norm_num)

/-! ## Complex arithmetic over the reals -/

@[simp] theorem toComplex_re (z : Cplx ℝ) : z.toComplex.re = z.re := rfl

@[simp] theorem toComplex_im (z : Cplx ℝ) : z.toComplex.im = z.im := rfl

@[simp] theorem toComplex_cadd (a b : Cplx ℝ) : (realNumerics.cadd a b).toComplex = a.toComplex + b.toComplex := rfl

@[simp] theorem toComplex_csub (a b : Cplx ℝ) : (realNumerics.csub a b).toComplex = a.toComplex - b.toComplex := rfl

@[simp] theorem toComplex_cmul (a b : Cplx ℝ) : (realNumerics.cmul a b).toComplex = a.toComplex * b.toComplex :=
  Complex.ext (Complex.mul_re a.toComplex b.toComplex).symm (Complex.mul_im a.toComplex b.toComplex).symm

@[simp] theorem toComplex_cneg (a : Cplx ℝ) : (realNumerics.cneg a).toComplex = -a.toComplex := rfl

@[simp] theorem toComplex_conj (a : Cplx ℝ) : (realNumerics.conj a).toComplex = (starRingEnd ℂ) a.toComplex := rfl

@[simp] theorem toComplex_cdiv (a : Cplx ℝ) (r : ℝ) : (realNumerics.cdiv a r).toComplex = a.toComplex / (r : ℂ) :=
  Complex.ext (Complex.div_ofReal_re a.toComplex r).symm (Complex.div_ofReal_im a.toComplex r).symm

theorem toComplex_ofReal (r : ℝ) : (⟨r, realNumerics.ofNat 0⟩ : Cplx ℝ).toComplex = r :=
  Complex.ext rfl Nat.cast_zero

/-- CENTER's sign (R135 of 40). -/
theorem toComplex_centerLane (x y : Nat) (a : Cplx ℝ) :
    (centerLane realNumerics x y a).toComplex = a.toComplex * (-1) ^ (x + y) := by
  unfold centerLane
  split
  · rename_i h; rw [(Nat.even_iff.mpr h).neg_one_pow, mul_one]
  · rename_i h; rw [(Nat.odd_iff.mpr (Nat.mod_two_ne_zero.mp h)).neg_one_pow, mul_neg_one, toComplex_cneg]

/-- `TWT[k]` over the reals (R133 of 40). -/
theorem toComplex_twiddle (n k : Nat) : (twiddle realNumerics n k).toComplex = wave (k / n) := by
  have hangle : (-2 * Real.pi * Complex.I * (k / n) : ℂ) = ((-(2 : Nat) * Real.pi * k / n : ℝ) : ℂ) * Complex.I := by
    push_cast; ring
  have htwiddle : twiddle realNumerics n k
      = ⟨Real.cos (-(2 : Nat) * Real.pi * k / n), Real.sin (-(2 : Nat) * Real.pi * k / n)⟩ := by
    simp [twiddle]
  rw [wave, hangle, htwiddle]
  exact Complex.ext (Complex.exp_ofReal_mul_I_re _).symm (Complex.exp_ofReal_mul_I_im _).symm

/-! ## The bit reversal (R131 of 40) -/

theorem reverseBits_zero (i : Nat) : reverseBits i 0 = 0 := rfl

/-- The lowest bit becomes the highest one. -/
theorem reverseBits_succ (i n : Nat) : reverseBits i (n + 1) = i % 2 * 2 ^ n + reverseBits (i / 2) n := by
  unfold reverseBits
  rw [List.range_succ_eq_map, List.map_cons, List.sum_cons, List.map_map]
  congr 1
  · simp [Nat.shiftLeft_eq, Nat.and_one_is_mod]
  · congr 1
    refine List.map_congr_left fun t _ => ?_
    simp only [Function.comp_apply, Nat.succ_eq_add_one, Nat.shiftRight_succ_inside]
    congr 1
    omega

/-! ## One butterfly pass (R162, R163 of 41) -/

/-- One output of stage `j+1` on lines of length `2^(j+1+r)`: the upper and the lower half of a block of `2^(j+1)`. -/
theorem butterfly_stage {α : Type} (K : Numerics α) (j r : Nat) (twt line : Nat → Cplx α) (x : Nat) :
    butterfly K (2 ^ (j + 1 + r)) (j + 1) twt line x
      = if x % 2 ^ (j + 1) < 2 ^ j then K.cadd (line x) (K.cmul (twt (x % 2 ^ (j + 1) * 2 ^ r)) (line (x + 2 ^ j)))
        else K.csub (line (x - 2 ^ j)) (K.cmul (twt ((x % 2 ^ (j + 1) - 2 ^ j) * 2 ^ r)) (line x)) := by
  have hhalf : 2 ^ (j + 1) / 2 = 2 ^ j := by rw [pow_succ, Nat.mul_div_cancel _ two_pos]
  have hstride : 2 ^ (j + 1 + r) / 2 ^ (j + 1) = 2 ^ r := by
    rw [pow_add, Nat.mul_div_cancel_left _ (Nat.two_pow_pos _)]
  simp only [butterfly, hhalf, hstride]

/-- A pass reads its line and the table inside their ranges only. -/
theorem butterfly_congr {α : Type} (K : Numerics α) {j n : Nat} (hj : j < n) {twt twt' line line' : Nat → Cplx α}
    (htwt : ∀ k, k < 2 ^ n / 2 → twt k = twt' k) (hline : ∀ i, i < 2 ^ n → line i = line' i) {x : Nat} (hx : x < 2 ^ n) :
    butterfly K (2 ^ n) (j + 1) twt line x = butterfly K (2 ^ n) (j + 1) twt' line' x := by
  obtain ⟨r, rfl⟩ := Nat.exists_eq_add_of_lt hj
  rw [show j + r + 1 = j + 1 + r by omega] at *
  have hsize : 2 ^ (j + 1 + r) = 2 ^ r * (2 * 2 ^ j) := by ring
  have hblock : 2 ^ (j + 1) = 2 * 2 ^ j := pow_succ' 2 j
  have hentry (p : Nat) (hp : p < 2 ^ j) : p * 2 ^ r < 2 ^ (j + 1 + r) / 2 := by
    rw [show 2 ^ (j + 1 + r) = 2 ^ j * 2 ^ r * 2 by ring, Nat.mul_div_cancel _ two_pos]
    exact Nat.mul_lt_mul_of_pos_right hp (Nat.two_pow_pos r)
  rw [butterfly_stage, butterfly_stage]
  have hmod := Nat.mod_lt x (show 0 < 2 ^ (j + 1) from Nat.two_pow_pos _)
  split
  · rename_i hp
    have hblocks : 2 ^ (j + 1) * (x / 2 ^ (j + 1)) + 2 ^ (j + 1) ≤ 2 ^ (j + 1 + r) := by
      rw [← Nat.mul_succ, pow_add 2 (j + 1) r]
      exact Nat.mul_le_mul_left _ (Nat.succ_le_of_lt (Nat.div_lt_of_lt_mul (by rwa [← pow_add])))
    have hpartner : x + 2 ^ j < 2 ^ (j + 1 + r) := by
      have := Nat.div_add_mod x (2 ^ (j + 1))
      omega
    rw [hline x hx, hline _ hpartner, htwt _ (hentry _ hp)]
  · rename_i hp
    rw [hline x hx, hline (x - 2 ^ j) (by omega), htwt _ (hentry _ (by omega))]

/-! ## All passes (R166 of 41) -/

/-- The samples that block `j` holds after `k` passes on lines of length `2^(k+r)`: every `2^r`-th one, from the bit reversal
of `j`. -/
def blockSamples (z : Nat → Cplx ℝ) (j r : Nat) (m : Nat) : ℂ := (z (reverseBits j r + m * 2 ^ r)).toComplex

/-- The even and the odd samples of a block are those of its two halves. -/
theorem blockSamples_halves (z : Nat → Cplx ℝ) (j r : Nat) :
    blockSamples z (2 * j) (r + 1) = (fun m => blockSamples z j r (2 * m))
      ∧ blockSamples z (2 * j + 1) (r + 1) = fun m => blockSamples z j r (2 * m + 1) := by
  constructor <;> funext m <;> simp only [blockSamples, reverseBits_succ]
  · rw [Nat.mul_mod_right, Nat.mul_div_cancel_left _ two_pos]
    congr 2; ring
  · rw [show (2 * j + 1) % 2 = 1 by omega, show (2 * j + 1) / 2 = j by omega]
    congr 2; ring

/-- A position of a line, as a block of `h` and a place in it. -/
theorem block_div_mod {h b p : Nat} (hp : p < h) : (b * h + p) / h = b ∧ (b * h + p) % h = p :=
  ⟨grid_div hp, grid_mod hp⟩

/-- After `k` passes every block of `2^k` positions holds the transform of its samples. -/
theorem toComplex_linePasses_block (z : Nat → Cplx ℝ) (k r x : Nat) :
    (linePasses (k + r) z k x).toComplex = transform (2 ^ k) (blockSamples z (x / 2 ^ k) r) (x % 2 ^ k) := by
  induction k generalizing r x with
  | zero => simp [linePasses, transform, blockSamples, Nat.mod_one]
  | succ k ih =>
    have hblock : 2 ^ (k + 1) = 2 * 2 ^ k := pow_succ' 2 k
    have hmod := Nat.mod_lt x (Nat.two_pow_pos (k + 1))
    have hx := Nat.div_add_mod' x (2 ^ (k + 1))
    generalize x / 2 ^ (k + 1) = j at *
    have hhalf (b p : Nat) (hp : p < 2 ^ k) : (linePasses (k + 1 + r) z k (b * 2 ^ k + p)).toComplex
        = transform (2 ^ k) (blockSamples z b (r + 1)) p := by
      rw [Nat.add_right_comm k 1 r, Nat.add_assoc k r 1, ih, (block_div_mod hp).1, (block_div_mod hp).2]
    have htwiddle (p : Nat) : (twiddle realNumerics (2 ^ (k + 1 + r)) (p * 2 ^ r)).toComplex = wave (p / (2 * 2 ^ k : Nat)) := by
      rw [toComplex_twiddle]
      congr 1
      push_cast
      rw [pow_add, pow_succ', mul_div_mul_right _ _ (pow_ne_zero r two_ne_zero)]
    obtain ⟨heven, hodd⟩ := blockSamples_halves z j r
    rw [linePasses, butterfly_stage, hblock]
    rw [hblock] at hx hmod
    generalize x % (2 * 2 ^ k) = q at *
    split
    · rename_i hq
      have hupper : x = 2 * j * 2 ^ k + q := by rw [← hx]; ring
      have hlower : x + 2 ^ k = (2 * j + 1) * 2 ^ k + q := by rw [← hx]; ring
      rw [toComplex_cadd, toComplex_cmul, htwiddle, hlower, hupper, hhalf _ _ hq, hhalf _ _ hq, heven, hodd, transform_double]
    · rename_i hq
      obtain ⟨p, rfl⟩ := Nat.exists_eq_add_of_le' (Nat.le_of_not_lt hq)
      have hp : p < 2 ^ k := by omega
      have hlower : x = (2 * j + 1) * 2 ^ k + p := by rw [← hx]; ring
      have hupper : x - 2 ^ k = 2 * j * 2 ^ k + p := by rw [hlower]; exact Nat.sub_eq_of_eq_add (by ring)
      rw [toComplex_csub, toComplex_cmul, Nat.add_sub_cancel, htwiddle, hupper, hlower, hhalf _ _ hp, hhalf _ _ hp, heven, hodd,
        transform_double_add _ (Nat.two_pow_pos k)]

/-- The permute and all passes turn a line into its transform. -/
theorem toComplex_linePasses (n : Nat) (z : Nat → Cplx ℝ) {u : Nat} (hu : u < 2 ^ n) :
    (linePasses n z n u).toComplex = transform (2 ^ n) (fun x => (z x).toComplex) u := by
  have h := toComplex_linePasses_block z n 0 u
  rw [Nat.mod_eq_of_lt hu, Nat.add_zero] at h
  rw [h]
  refine transform_congr (fun m _ => ?_) u
  simp [blockSamples, reverseBits_zero]

end Sys2Proof.Machine
end

section
/-! SUPPORT. The transform macros of the machine (R166, R170, R172, R174 of 41): the permutes and passes along an axis are
`linePasses` on every line of the work buffer, in every number system; over the reals FFT.FWD and FFT.INV are the centred
`transform2` and its inverse. -/

namespace Sys2Proof.Machine

variable {α ω : Type} (M : NumSystem α ω)

/-! ## An open session -/

/-- A session is open on a canvas of size `2^k`, and the tables hold their content for it (R30 of 10, R252 of 44). -/
structure OpenSession (k : Nat) (s : State α ω) : Prop where
  session : s.session ≠ .uninitialized
  logn : s.logn.val = k
  brt : ∀ i, i < 2 ^ k → s.brtEntry i = reverseBits i k
  twt : ∀ j, j < 2 ^ k / 2 → s.twtEntry M j = twiddle M.ops (2 ^ k) j

variable {M} {k : Nat} {s : State α ω}

theorem OpenSession.n (h : OpenSession M k s) : s.n = 2 ^ k := congrArg (2 ^ ·) h.logn

/-- What `SessionTables` says of an open session. -/
theorem SessionTables.openSession (h : SessionTables M s) (hs : s.session ≠ .uninitialized) : OpenSession M s.logn.val s := by
  obtain ⟨-, -, hbrt, htwt⟩ := h hs
  exact ⟨hs, rfl, hbrt, htwt⟩

theorem OpenSession.self (h : OpenSession M k s) : OpenSession M s.logn.val s := h.logn.symm ▸ h

/-- Dispatches and flips of the parity keep it. -/
theorem OpenSession.dispatchS (h : OpenSession M k s) (d : Spectrum) (lane : Nat → Nat → Cplx α) :
    OpenSession M k (s.dispatchS d lane) := ⟨h.session, h.logn, h.brt, h.twt⟩

theorem OpenSession.withParity (h : OpenSession M k s) (b : Bool) : OpenSession M k { s with pp := b } :=
  ⟨h.session, h.logn, h.brt, h.twt⟩

/-! ## The work buffer and its lines -/

variable (M)

/-- `W[PP][x, y]` (R25 of 10). -/
def State.workAt (s : State α ω) (x y : Nat) : Cplx α := s.specAt M (workBuffer s.pp) x y

/-- A ping-pong dispatch leaves its lanes in the work buffer. -/
theorem State.workAt_pingPong {op : Spectrum → Spectrum → State α ω → State α ω} {lane : Nat → Nat → Cplx α}
    (hop : op (workBuffer (!s.pp)) (workBuffer s.pp) s = s.dispatchS (workBuffer (!s.pp)) lane) {x y : Nat}
    (hx : x < s.n) (hy : y < s.n) : (s.pingPong op).workAt M x y = lane x y := by
  rw [State.pingPong_eq, hop]
  exact (State.specAt_dispatchS M s _ lane _ hx hy).trans (if_pos rfl)

/-- The two axes of the transform: lines are rows, or columns. -/
inductive Axis
  | row | col

/-- Element `i` of line `l` of the work buffer. -/
def Axis.element : Axis → State α ω → Nat → Nat → Cplx α
  | .row, s, i, l => s.workAt M i l
  | .col, s, i, l => s.workAt M l i

/-- The bit-reversal permute along an axis (R160, R161 of 41). -/
def Axis.permute : Axis → Spectrum → Spectrum → State α ω → State α ω
  | .row => State.brevRow M
  | .col => State.brevCol M

/-- The butterfly pass along an axis (R162, R163 of 41). -/
def Axis.pass : Axis → Spectrum → Spectrum → Nat → State α ω → State α ω
  | .row => State.bflyRow M
  | .col => State.bflyCol M

/-- The permute and the first `j` passes along an axis (R170 of 41). -/
def Axis.passes (ax : Axis) (j : Nat) (s : State α ω) : State α ω :=
  State.passes (ax.pass M) j (s.pingPong (ax.permute M))

theorem State.rowsAndColumns_eq_passes (s : State α ω) :
    s.rowsAndColumns M = Axis.col.passes M s.logn.val (Axis.row.passes M s.logn.val s) := rfl

variable {M}

theorem Axis.element_permute (ax : Axis) {i l : Nat} (hi : i < s.n) (hl : l < s.n) :
    ax.element M (s.pingPong (ax.permute M)) i l = ax.element M s (s.brtEntry i) l := by
  cases ax with
  | row => exact State.workAt_pingPong M (lane := fun x y => s.workAt M (s.brtEntry x) y) rfl hi hl
  | col => exact State.workAt_pingPong M (lane := fun x y => s.workAt M x (s.brtEntry y)) rfl hl hi

theorem Axis.element_pass (ax : Axis) (j : Nat) {i l : Nat} (hi : i < s.n) (hl : l < s.n) :
    ax.element M (s.pingPong fun d a => ax.pass M d a j) i l
      = butterfly M.ops s.n j (s.twtEntry M) (fun i => ax.element M s i l) i := by
  cases ax with
  | row =>
    exact State.workAt_pingPong M
      (lane := fun x y => butterfly M.ops s.n j (s.twtEntry M) (fun i => s.workAt M i y) x) rfl hi hl
  | col =>
    exact State.workAt_pingPong M
      (lane := fun x y => butterfly M.ops s.n j (s.twtEntry M) (fun i => s.workAt M x i) y) rfl hl hi

theorem OpenSession.permute (h : OpenSession M k s) (ax : Axis) : OpenSession M k (s.pingPong (ax.permute M)) := by
  cases ax <;> exact (h.dispatchS _ _).withParity _

theorem OpenSession.pass (h : OpenSession M k s) (ax : Axis) (j : Nat) :
    OpenSession M k (s.pingPong fun d a => ax.pass M d a j) := by
  cases ax <;> exact (h.dispatchS _ _).withParity _

theorem OpenSession.passes (h : OpenSession M k s) (ax : Axis) (j : Nat) : OpenSession M k (ax.passes M j s) :=
  State.passes_induction (fun i _ ht => ht.pass ax (i + 1)) j _ (h.permute ax)

/-- The parity after a permute and all passes along both axes is the one before (R169 of 41). -/
theorem State.pp_rowsAndColumns (s : State α ω) : (s.rowsAndColumns M).pp = s.pp := by
  have hpasses (ax : Axis) (j : Nat) (t : State α ω) : (ax.passes M j t).pp = (!t.pp ^^ decide (j % 2 = 1)) :=
    State.pp_passes _ _ j
  rw [State.rowsAndColumns_eq_passes, hpasses, hpasses]
  cases s.pp <;> cases decide (s.logn.val % 2 = 1) <;> rfl

/-! ## The element-wise dispatches of the macros -/

section
variable (M) (s : State α ω) (d : Spectrum) {x y : Nat} (hx : x < s.n) (hy : y < s.n)
include hx hy

theorem State.specAt_widen (a : Plane) : (s.widen M d a).specAt M d x y = ⟨s.planeAt M a x y, M.ops.ofNat 0⟩ :=
  (State.specAt_dispatchS M s d _ d hx hy).trans (if_pos rfl)

theorem State.specAt_center (a : Spectrum) : (s.center M d a).specAt M d x y = centerLane M.ops x y (s.specAt M a x y) :=
  (State.specAt_dispatchS M s d _ d hx hy).trans (if_pos rfl)

theorem State.specAt_conj (a : Spectrum) : (s.conj M d a).specAt M d x y = M.ops.conj (s.specAt M a x y) :=
  (State.specAt_dispatchS M s d _ d hx hy).trans (if_pos rfl)

theorem State.specAt_scale (a : Spectrum) :
    (s.scale M d a).specAt M d x y = M.ops.cdiv (s.specAt M a x y) (M.ops.ofNat (s.n * s.n)) :=
  (State.specAt_dispatchS M s d _ d hx hy).trans (if_pos rfl)

theorem State.specAt_copyS (a : Spectrum) : (s.copyS M d a).specAt M d x y = s.specAt M a x y :=
  (State.specAt_dispatchS M s d _ d hx hy).trans (if_pos rfl)

theorem State.planeAt_toReal (p : Plane) (a : Spectrum) : (s.toReal M p a).planeAt M p x y = (s.specAt M a x y).re :=
  (State.planeAt_dispatchP M s p _ p hx hy).trans (if_pos rfl)

end

/-- With the parity at 0 the work buffer is `W0`. -/
theorem State.workAt_of_pp (h : s.pp = false) (x y : Nat) : s.workAt M x y = s.specAt M .w0 x y := by
  rw [State.workAt, h]; rfl

variable (M)

/-- FFT.FWD before the permutes: the plane, widened and centred, in `W0` (R170 of 41). -/
def State.loadCentred (a : Plane) (s : State α ω) : State α ω := State.center M .w0 .w0 { s.widen M .w0 a with pp := false }

/-- FFT.INV before the permutes: the conjugate of the spectrum in `W0` (R172 of 41). -/
def State.loadConj (a : Spectrum) (s : State α ω) : State α ω := { s.conj M .w0 a with pp := false }

/-- FFT.INV after the passes: conjugate, scale and centre `W0`, and write its real part (R172 of 41). -/
def State.storeReal (d : Plane) (s : State α ω) : State α ω :=
  (((s.conj M .w0 .w0).scale M .w0 .w0).center M .w0 .w0).toReal M d .w0

theorem State.fftForward_eq (d : Spectrum) (a : Plane) (s : State α ω) :
    s.fftForward M d a
      = ((s.loadCentred M a).rowsAndColumns M).copyS M d (workBuffer ((s.loadCentred M a).rowsAndColumns M).pp) := rfl

theorem State.fftInverse_eq (d : Plane) (a : Spectrum) (s : State α ω) :
    s.fftInverse M d a = ((s.loadConj M a).rowsAndColumns M).storeReal M d := rfl

section
variable (s : State α ω) {x y : Nat} (hx : x < s.n) (hy : y < s.n)
include hx hy

theorem State.workAt_loadCentred (a : Plane) :
    (s.loadCentred M a).workAt M x y = centerLane M.ops x y ⟨s.planeAt M a x y, M.ops.ofNat 0⟩ := by
  rw [State.workAt_of_pp rfl, ← State.specAt_widen M s .w0 hx hy]
  exact State.specAt_center M { s.widen M .w0 a with pp := false } .w0 hx hy .w0

theorem State.workAt_loadConj (a : Spectrum) : (s.loadConj M a).workAt M x y = M.ops.conj (s.specAt M a x y) := by
  rw [State.workAt_of_pp rfl]
  exact State.specAt_conj M s .w0 hx hy a

theorem State.planeAt_storeReal (h : s.pp = false) (d : Plane) :
    (s.storeReal M d).planeAt M d x y
      = (centerLane M.ops x y (M.ops.cdiv (M.ops.conj (s.workAt M x y)) (M.ops.ofNat (s.n * s.n)))).re := by
  rw [State.storeReal, State.planeAt_toReal M, State.specAt_center M, State.specAt_scale M, State.specAt_conj M s .w0 hx hy,
    State.workAt_of_pp h]
  · rfl
  all_goals assumption

end

variable {M}

theorem OpenSession.widen (h : OpenSession M k s) (d : Spectrum) (a : Plane) : OpenSession M k (s.widen M d a) := h.dispatchS d _

theorem OpenSession.center (h : OpenSession M k s) (d a : Spectrum) : OpenSession M k (s.center M d a) := h.dispatchS d _

theorem OpenSession.loadCentred (h : OpenSession M k s) (a : Plane) : OpenSession M k (s.loadCentred M a) :=
  ((h.widen .w0 a).withParity false).center .w0 .w0

theorem OpenSession.loadConj (h : OpenSession M k s) (a : Spectrum) : OpenSession M k (s.loadConj M a) :=
  (h.dispatchS _ _).withParity _

theorem OpenSession.rowsAndColumns (h : OpenSession M s.logn.val s) : OpenSession M s.logn.val (s.rowsAndColumns M) :=
  (h.passes .row _).passes .col _

theorem OpenSession.fftForward (h : OpenSession M s.logn.val s) (d : Spectrum) (a : Plane) :
    OpenSession M s.logn.val (s.fftForward M d a) :=
  OpenSession.dispatchS (OpenSession.rowsAndColumns (s := s.loadCentred M a) (h.loadCentred a)) d _

theorem OpenSession.complete (h : OpenSession M k s) : OpenSession M k s.complete := ⟨h.session, h.logn, h.brt, h.twt⟩

/-! ## Over the reals -/

section
variable {M : NumSystem ℝ ω} {s : State ℝ ω} (hM : M.ops = realNumerics)
include hM

/-- The permute and the first `j` passes turn every line of the work buffer into its `linePasses`. -/
theorem Axis.element_passes_eq_linePasses (h : OpenSession M k s) (ax : Axis) {j : Nat} (hj : j ≤ k) {i l : Nat}
    (hi : i < 2 ^ k) (hl : l < 2 ^ k) :
    ax.element M (ax.passes M j s) i l = linePasses k (fun i => ax.element M s i l) j i := by
  induction j generalizing i with
  | zero =>
    have helement := ax.element_permute (M := M) (s := s) (i := i) (l := l) (by rwa [h.n]) (by rwa [h.n])
    rw [h.brt i hi] at helement
    exact helement
  | succ j ih =>
    have ht : OpenSession M k (ax.passes M j s) := h.passes ax j
    have helement := ax.element_pass (M := M) (s := ax.passes M j s) (j + 1) (i := i) (l := l) (by rwa [ht.n]) (by rwa [ht.n])
    rw [ht.n, hM] at helement
    refine helement.trans (butterfly_congr _ hj (fun m hm => ?_) (fun m hm => ih (by omega) hm) hi)
    rw [ht.twt m hm, hM]

/-- R166 of 41: along an axis the permute and all passes turn every line of the work buffer into its transform. -/
theorem Axis.toComplex_element_passes (h : OpenSession M k s) (ax : Axis) {u l : Nat} (hu : u < 2 ^ k) (hl : l < 2 ^ k) :
    (ax.element M (ax.passes M k s) u l).toComplex = transform (2 ^ k) (fun i => (ax.element M s i l).toComplex) u := by
  rw [Axis.element_passes_eq_linePasses hM h ax le_rfl hu hl, toComplex_linePasses k _ hu]

/-- R166 of 41: rows and columns in sequence give the two-dimensional transform of the work buffer. -/
theorem toComplex_workAt_rowsAndColumns (h : OpenSession M s.logn.val s) {u v : Nat} (hu : u < s.n) (hv : v < s.n) :
    ((s.rowsAndColumns M).workAt M u v).toComplex = transform2 s.n (fun x y => (s.workAt M x y).toComplex) u v := by
  rw [State.rowsAndColumns_eq_passes, transform2_eq_transform]
  refine (Axis.toComplex_element_passes hM (h.passes .row _) .col hv hu).trans (transform_congr (fun y hy => ?_) v)
  exact Axis.toComplex_element_passes hM h .row hu hy

/-- FFT.FWD's expansion: the transform of the centred plane (R170 of 41). -/
theorem toComplex_specAt_fftForward (h : OpenSession M s.logn.val s) (d : Spectrum) (a : Plane) {u v : Nat}
    (hu : u < s.n) (hv : v < s.n) :
    ((s.fftForward M d a).specAt M d u v).toComplex
      = transform2 s.n (fun x y => ((s.planeAt M a x y : ℝ) : ℂ) * (-1) ^ (x + y)) u v := by
  have ht : OpenSession M (s.loadCentred M a).logn.val (s.loadCentred M a) := h.loadCentred a
  have hn : ((s.loadCentred M a).rowsAndColumns M).n = s.n := ht.rowsAndColumns.n
  have hload (x y : Nat) (hx : x < s.n) (hy : y < s.n) :
      ((s.loadCentred M a).workAt M x y).toComplex = ((s.planeAt M a x y : ℝ) : ℂ) * (-1) ^ (x + y) := by
    rw [State.workAt_loadCentred M s hx hy, hM, toComplex_centerLane, toComplex_ofReal]
  rw [State.fftForward_eq, State.specAt_copyS M _ d (by rwa [hn]) (by rwa [hn])]
  exact (toComplex_workAt_rowsAndColumns hM ht hu hv).trans (transform2_congr hload u v)

/-- FFT.INV's expansion: conjugate, transform, conjugate, scale, centre, and the real part (R172 of 41). -/
theorem planeAt_fftInverse (h : OpenSession M s.logn.val s) (d : Plane) (a : Spectrum) {x y : Nat}
    (hx : x < s.n) (hy : y < s.n) :
    (s.fftInverse M d a).planeAt M d x y
      = ((starRingEnd ℂ) (transform2 s.n (fun u v => (starRingEnd ℂ) (s.specAt M a u v).toComplex) x y)
          / (s.n * s.n : Nat) * (-1) ^ (x + y)).re := by
  have ht : OpenSession M (s.loadConj M a).logn.val (s.loadConj M a) := h.loadConj a
  have hn : ((s.loadConj M a).rowsAndColumns M).n = s.n := ht.rowsAndColumns.n
  have hload (u v : Nat) (hu : u < s.n) (hv : v < s.n) :
      ((s.loadConj M a).workAt M u v).toComplex = (starRingEnd ℂ) (s.specAt M a u v).toComplex := by
    rw [State.workAt_loadConj M s hu hv, hM, toComplex_conj]
  have htransform : (((s.loadConj M a).rowsAndColumns M).workAt M x y).toComplex
      = transform2 s.n (fun u v => (starRingEnd ℂ) (s.specAt M a u v).toComplex) x y :=
    (toComplex_workAt_rowsAndColumns hM ht hx hy).trans (transform2_congr hload x y)
  rw [State.fftInverse_eq, State.planeAt_storeReal M _ (by rwa [hn]) (by rwa [hn]) (State.pp_rowsAndColumns _), hn, hM,
    ← toComplex_re, toComplex_centerLane, toComplex_cdiv, toComplex_conj, htransform]
  rfl

end

end Sys2Proof.Machine
end

section
/-! The properties S1 and S3 to S6 of 95 in the reference machine (O60): each from the law of the operation it speaks of. -/

namespace Sys2Proof.Machine

/-! ## FFT.FWD and FFT.INV as commands -/

section
variable {α ω : Type} [DecidableEq α] {M : NumSystem α ω} {s : State α ω} {d a : Byte} (hs : s.session ≠ .uninitialized)
include hs

theorem execOver_fftFwd {dq : Spectrum} {ap : Plane} (hd : spectrumOf d = some dq) (ha : planeOf a = some ap) :
    execOver M (.fftFwd d a) s = .next (s.fftForward M dq ap).complete := by
  show s.finish _ = _
  rw [operandsSP_ok hd ha hs]; rfl

theorem execOver_fftInv {dp : Plane} {aq : Spectrum} (hd : planeOf d = some dp) (ha : spectrumOf a = some aq) :
    execOver M (.fftInv d a) s = .next ((s.fftInverse M dp aq).planeTouched dp).complete := by
  show s.finish _ = _
  rw [operandsPS_ok hd ha hs]; rfl

end

/-- What the end of a command and R231 of 43 leave of the planes. -/
theorem State.planeAt_planeTouched_complete {α ω : Type} (M : NumSystem α ω) (s : State α ω) (d p : Plane) (x y : Nat) :
    ((s.planeTouched d).complete).planeAt M p x y = s.planeAt M p x y := by
  rw [State.planeTouched_eq]; rfl

theorem normSq_toComplex (z : Cplx ℝ) : Complex.normSq z.toComplex = z.re ^ 2 + z.im ^ 2 := by
  rw [Complex.normSq_apply, pow_two, pow_two]; rfl

/-- A centred sample has the energy of the sample. -/
theorem normSq_centred (p : ℝ) (k : Nat) : Complex.normSq ((p : ℂ) * (-1) ^ k) = p ^ 2 := by
  simp [Complex.normSq_eq_norm_sq]

section
variable {ω : Type} {M : NumSystem ℝ ω} {s : State ℝ ω} (hM : M.ops = realNumerics)
include hM

/-- R173 (b) of 41: the energy of FFT.FWD's spectrum. -/
theorem sum_normSq_fftForward (h : OpenSession M s.logn.val s) (d : Spectrum) (a : Plane) :
    ∑ v ∈ Finset.range s.n, ∑ u ∈ Finset.range s.n, Complex.normSq ((s.fftForward M d a).specAt M d u v).toComplex
      = (s.n * s.n : Nat) * ∑ y ∈ Finset.range s.n, ∑ x ∈ Finset.range s.n, s.planeAt M a x y ^ 2 := by
  calc _ = ∑ v ∈ Finset.range s.n, ∑ u ∈ Finset.range s.n,
          Complex.normSq (transform2 s.n (fun x y => ((s.planeAt M a x y : ℝ) : ℂ) * (-1) ^ (x + y)) u v) :=
        Finset.sum_congr rfl fun v hv => Finset.sum_congr rfl fun u hu => by
          rw [toComplex_specAt_fftForward hM h d a (Finset.mem_range.mp hu) (Finset.mem_range.mp hv)]
    _ = _ := by rw [sum_normSq_transform2]; simp only [normSq_centred]

/-- R174 of 41: FFT.INV gives back the plane whose centred transform it is handed. -/
theorem planeAt_fftInverse_of_transform (h : OpenSession M s.logn.val s) (d : Plane) (q : Spectrum) (p : Nat → Nat → ℝ)
    (hq : ∀ u v, u < s.n → v < s.n →
      (s.specAt M q u v).toComplex = transform2 s.n (fun x y => (p x y : ℂ) * (-1) ^ (x + y)) u v)
    {x y : Nat} (hx : x < s.n) (hy : y < s.n) : (s.fftInverse M d q).planeAt M d x y = p x y := by
  have hn : ((s.n * s.n : Nat) : ℂ) ≠ 0 := Nat.cast_ne_zero.mpr (Nat.mul_pos s.n_pos s.n_pos).ne'
  have hsquare : ((-1 : ℂ) ^ (x + y)) * (-1) ^ (x + y) = 1 := by rw [← mul_pow]; simp
  rw [planeAt_fftInverse hM h d q hx hy,
    transform2_congr (b := fun u v => (starRingEnd ℂ) (transform2 s.n (fun x y => (p x y : ℂ) * (-1) ^ (x + y)) u v))
      (fun u v hu hv => by rw [hq u v hu hv]),
    conj_transform2_conj_transform2 _ hx hy, ← Nat.cast_mul, mul_div_cancel_left₀ _ hn, mul_assoc, hsquare, mul_one,
    Complex.ofReal_re]

end

/-! ## The amplifier, the gate and the masks over the reals -/

theorem smoothstep_of_nonpos {t : ℝ} (h : t ≤ 0) : smoothstep realNumerics t = 0 := by
  simp [smoothstep, h]

theorem smoothstep_of_one_le {t : ℝ} (h : 1 ≤ t) : smoothstep realNumerics t = 1 := by
  simp [smoothstep, h, zero_lt_one.trans_le h]

theorem gate_eq (lo hi steep f : ℝ) :
    gate realNumerics lo hi steep f
      = smoothstep realNumerics ((f - lo) / ((hi - lo) / (2 * steep)))
        * (1 - smoothstep realNumerics ((f - (hi - (hi - lo) / (2 * steep))) / ((hi - lo) / (2 * steep)))) := by
  simp [gate]

/-- Below the lower cutoff the gate is closed (R193 of 42). -/
theorem gate_of_le_lo {lo hi steep f : ℝ} (hw : 0 < (hi - lo) / (2 * steep)) (h : f ≤ lo) :
    gate realNumerics lo hi steep f = 0 := by
  rw [gate_eq, smoothstep_of_nonpos (div_nonpos_of_nonpos_of_nonneg (sub_nonpos.mpr h) hw.le), zero_mul]

/-- Between the ramps the gate is open (R193 of 42). -/
theorem gate_of_between_ramps {lo hi steep f : ℝ} (hw : 0 < (hi - lo) / (2 * steep))
    (hlo : lo + (hi - lo) / (2 * steep) ≤ f) (hhi : f ≤ hi - (hi - lo) / (2 * steep)) :
    gate realNumerics lo hi steep f = 1 := by
  rw [gate_eq, smoothstep_of_one_le ((one_le_div hw).mpr (by linarith)),
    smoothstep_of_nonpos (div_nonpos_of_nonpos_of_nonneg (by linarith) hw.le), sub_zero, one_mul]

/-- The masks of all levels telescope from the first edge, 1, to the last, 0 (R227 of 43). -/
theorem sum_bandMask (levels : Nat) (h : 1 ≤ levels) (fmin fmax f : ℝ) :
    ((List.range levels).map fun i => bandMask realNumerics levels fmin fmax i f).sum = 1 := by
  have hfirst : bandEdge realNumerics levels fmin fmax 0 f = 1 := by simp [bandEdge]
  have hlast : bandEdge realNumerics levels fmin fmax levels f = 0 := by
    simp [bandEdge, Nat.one_le_iff_ne_zero.mp h]
  calc _ = bandEdge realNumerics levels fmin fmax 0 f - bandEdge realNumerics levels fmin fmax levels f :=
        List.sum_range_sub' levels fun i => bandEdge realNumerics levels fmin fmax i f
    _ = 1 := by rw [hfirst, hlast, sub_zero]

/-- A phase that did not move is not amplified (R200, R201 of 42). -/
theorem ampDelta_self {P : Params ℝ} (h : P.edges = false) (f grad : ℝ) (c : Cplx ℝ) :
    ampDelta realNumerics P f grad c c = 0 := by
  have hwrap : wrapPhase realNumerics 0 = 0 := by
    simp [wrapPhase, Real.pi_pos, Real.pi_pos.le]
  simp [ampDelta, hwrap, h]

/-- R201 of 42: with `edges = 0`, a bin that did not move is returned scaled. -/
theorem ampBin_self {P : Params ℝ} (h : P.edges = false) (f grad : ℝ) (c : Cplx ℝ) :
    ampBin realNumerics P f grad c c = ⟨P.mscale * c.re, P.mscale * c.im⟩ := by
  have hmag : realNumerics.mag c = ‖c.toComplex‖ := (Complex.norm_def c.toComplex).symm
  have harg : realNumerics.arg c = Complex.arg c.toComplex := rfl
  have hre : ‖c.toComplex‖ * Real.cos (Complex.arg c.toComplex) = c.re := Complex.norm_mul_cos_arg c.toComplex
  have him : ‖c.toComplex‖ * Real.sin (Complex.arg c.toComplex) = c.im := Complex.norm_mul_sin_arg c.toComplex
  simp only [ampBin, ampDelta_self h, hmag, harg, realNumerics_add, realNumerics_mul, realNumerics_cos, realNumerics_sin,
    add_zero]
  rw [← hre, ← him]
  congr 1 <;> ring

/-! ## The obligation -/

theorem abs_sub_le_zero_tol {M : NumSystem ℝ ℝ} (hM : IsReference M) {x y : ℝ} : |x - y| ≤ (M.tol : ℝ) ↔ x = y := by
  rw [hM.tol, Rat.cast_zero, abs_nonpos_iff, sub_eq_zero]

/-- Settles O60: every property of `Acceptable` is an equation in a reference machine. -/
theorem referenceIsAcceptable : Obligations.ReferenceIsAcceptable := by
  intro M hM
  constructor
  case roundTrip =>
    intro s t u q d a sq dp ap hq hd ha hs hT _ hfwd hinv x y hx hy
    have h := hT.openSession hs
    obtain rfl := Host.Outcome.next.inj ((execOver_fftFwd hs hq ha).symm.trans hfwd)
    have ht := (h.fftForward sq ap).complete.self
    obtain rfl := Host.Outcome.next.inj ((execOver_fftInv ht.session hd hq).symm.trans hinv)
    rw [abs_sub_le_zero_tol hM, State.planeAt_planeTouched_complete]
    have hn : (s.fftForward M sq ap).complete.n = s.n := (h.fftForward sq ap).complete.n
    refine planeAt_fftInverse_of_transform hM.ops ht dp sq (s.planeAt M ap) (fun u v hu hv => ?_) (by rwa [hn]) (by rwa [hn])
    rw [hn] at hu hv ⊢
    exact toComplex_specAt_fftForward hM.ops h sq ap hu hv
  case energy =>
    intro s t q a sq ap hq ha hs hT _ hfwd
    have h := hT.openSession hs
    obtain rfl := Host.Outcome.next.inj ((execOver_fftFwd hs hq ha).symm.trans hfwd)
    have hn : ((s.n * s.n : Nat) : ℝ) ≠ 0 := Nat.cast_ne_zero.mpr (Nat.mul_pos s.n_pos s.n_pos).ne'
    have henergy := sum_normSq_fftForward hM.ops h sq ap
    simp only [normSq_toComplex] at henergy
    rw [abs_sub_le_zero_tol hM, div_eq_iff hn, mul_comm]
    exact henergy
  case zeroMotion =>
    intro P f grad c hedges hscale
    have hone : P.mscale = 1 := by rw [hscale, hM.ops]; exact Nat.cast_one
    rw [abs_sub_le_zero_tol hM, abs_sub_le_zero_tol hM, hM.ops, ampBin_self hedges, hone]
    exact ⟨one_mul _, one_mul _⟩
  case bandSum =>
    intro fmin fmax f _ _
    rw [abs_sub_le_zero_tol hM, hM.ops]
    exact sum_bandMask 5 (by norm_num) fmin fmax f
  case gateEdges =>
    intro lo hi steep f f' hlo hhi hsteep hf hf'
    rw [hM.dec, hM.resetRegs, Option.some_inj] at hlo hhi hsteep
    obtain rfl : (0.05 : ℝ) = lo := hlo
    obtain rfl : (0.4 : ℝ) = hi := hhi
    obtain rfl : (3 : ℝ) = steep := hsteep
    obtain rfl : f = 0.02 := (abs_sub_le_zero_tol hM).mp hf
    obtain rfl : f' = 0.2 := (abs_sub_le_zero_tol hM).mp hf'
    rw [hM.ops, gate_of_le_lo (by norm_num) (by norm_num), gate_of_between_ramps (by norm_num) (by norm_num) (by norm_num),
      abs_sub_le_zero_tol hM, hM.tol]
    exact ⟨by simp, rfl⟩

end Sys2Proof.Machine
end

section
/-! The arithmetic of `binary32` (O47, O48): the order of the finite patterns (R75 of 20), the bounds of the open parameters
(R5), exact quotients and square roots, and the range of `atan2` (R14; log 2, 3). -/

namespace Sys2Proof

/-! ## The order of the patterns -/

/-- A pattern without sign is its exponent and its fraction. -/
theorem toNat_eq_exponent_fraction {w : Word} (h : w.toNat < 2 ^ 31) :
    w.toNat = (w.extractLsb' 23 8).toNat * 2 ^ 23 + (w.extractLsb' 0 23).toNat := by
  simp only [BitVec.extractLsb'_toNat, Nat.shiftRight_eq_div_pow]
  omega

/-- Below the sign bit the greater pattern has the greater magnitude. -/
theorem patternUnits_lt {v w : Word} (hvw : v.toNat < w.toNat) (hw : w.toNat < 2 ^ 31) : patternUnits v < patternUnits w := by
  have hv' := toNat_eq_exponent_fraction (hvw.trans hw)
  have hw' := toNat_eq_exponent_fraction hw
  have hfv := (v.extractLsb' 0 23).isLt
  have hfw := (w.extractLsb' 0 23).isLt
  unfold patternUnits
  generalize (v.extractLsb' 23 8).toNat = e at *
  generalize (v.extractLsb' 0 23).toNat = f at *
  generalize (w.extractLsb' 23 8).toNat = e' at *
  generalize (w.extractLsb' 0 23).toNat = f' at *
  have hexp : e < e' ∨ e = e' ∧ f < f' := by omega
  simp only
  obtain hlt | ⟨rfl, hlt⟩ := hexp
  · rw [if_neg (show e' ≠ 0 by omega)]
    split
    · calc f < 2 ^ 23 := hfv
        _ ≤ 2 ^ 23 + f' := Nat.le_add_right _ _
        _ ≤ (2 ^ 23 + f') * 2 ^ (e' - 1) := Nat.le_mul_of_pos_right _ (Nat.two_pow_pos _)
    · calc (2 ^ 23 + f) * 2 ^ (e - 1) < 2 ^ 24 * 2 ^ (e - 1) := Nat.mul_lt_mul_of_pos_right (by omega) (Nat.two_pow_pos _)
        _ = 2 ^ 23 * 2 ^ (e - 1 + 1) := by rw [pow_succ]; ring
        _ ≤ (2 ^ 23 + f') * 2 ^ (e' - 1) :=
          Nat.mul_le_mul (Nat.le_add_right _ _) (Nat.pow_le_pow_right two_pos (by omega))
  · split
    · exact hlt
    · exact Nat.mul_lt_mul_of_pos_right (by omega) (Nat.two_pow_pos _)

theorem patternValue_of_positive {w : Word} (h : w.toNat < 2 ^ 31) : patternValue w = (patternUnits w : ℚ) / 2 ^ 149 := by
  have hmsb : w.msb = false := by rw [BitVec.msb_eq_decide]; simpa using h
  simp only [patternValue, hmsb, Bool.false_eq_true, if_false, Rat.mkRat_eq_div]
  push_cast
  rfl

/-- Below the sign bit the greater pattern stands for the greater number. -/
theorem patternValue_lt {v w : Word} (hvw : v.toNat < w.toNat) (hw : w.toNat < 2 ^ 31) : patternValue v < patternValue w := by
  rw [patternValue_of_positive hw, patternValue_of_positive (hvw.trans hw)]
  have := patternUnits_lt hvw hw
  gcongr

theorem patternValue_le {v w : Word} (hvw : v.toNat ≤ w.toNat) (hw : w.toNat < 2 ^ 31) : patternValue v ≤ patternValue w := by
  rcases hvw.lt_or_eq with h | h
  · exact (patternValue_lt h hw).le
  · rw [BitVec.eq_of_toNat_eq h]

theorem isFinitePattern_of_lt {w : Word} (h : w.toNat < 0x7F800000) : isFinitePattern w = true := by
  have := toNat_eq_exponent_fraction (w := w) (by omega)
  simp only [isFinitePattern, bne_iff_ne, ne_eq]
  omega

/-- The number a finite pattern without sign draws lies between those of the patterns around it. -/
theorem Number.ofFree_bounds {lo w hi : Word} (hlo : lo.toNat ≤ w.toNat) (hhi : w.toNat ≤ hi.toNat)
    (h : hi.toNat < 0x7F800000) :
    patternValue lo ≤ (Number.ofFree w).val ∧ (Number.ofFree w).val ≤ patternValue hi := by
  rw [Number.ofFree_of_finite (isFinitePattern_of_lt (by omega))]
  exact ⟨patternValue_le hlo (by omega), patternValue_le hhi (by omega)⟩

/-! ## The open parameters of `binary32` (R5, R14) -/

/-- `0 < CFG_EPS <= 1/8` (R5 of 00). -/
theorem cfgEps_bounds : 0 < cfgEps.val ∧ cfgEps.val ≤ 1 / 8 := by
  have hidx := Config.epsIndex.isLt
  have hw : (BitVec.ofNat 32 (Config.epsIndex.val + 1)).toNat = Config.epsIndex.val + 1 := by
    rw [BitVec.toNat_ofNat]; omega
  obtain ⟨h1, h2⟩ := Number.ofFree_bounds (lo := 1#32) (w := BitVec.ofNat 32 (Config.epsIndex.val + 1)) (hi := 0x3E000000#32)
    (by rw [hw]; exact Nat.le_add_left _ _) (by rw [hw]; exact hidx) (by decide)
  exact ⟨lt_of_lt_of_le (by decide +kernel) h1, h2.trans (by decide +kernel)⟩

/-- The stored `pi` lies in `[3, 4)` (log 3). -/
theorem Number.pi_bounds : 3 ≤ Number.pi.val ∧ Number.pi.val < 4 := by
  have hidx := Config.piIndex.isLt
  have hw : (0x40400000#32 + Config.piIndex.setWidth 32).toNat = 0x40400000 + Config.piIndex.toNat := by
    rw [BitVec.toNat_add, BitVec.toNat_setWidth, BitVec.toNat_ofNat]; omega
  obtain ⟨h1, h2⟩ := Number.ofFree_bounds (lo := 0x40400000#32) (w := 0x40400000#32 + Config.piIndex.setWidth 32)
    (hi := 0x407FFFFF#32) (by rw [hw]; exact Nat.le_add_right _ _)
    (by rw [hw, show (0x407FFFFF#32).toNat = 0x40400000 + (2 ^ 22 - 1) from rfl]; omega) (by decide)
  exact ⟨le_trans (by decide +kernel) h1, lt_of_le_of_lt h2 (by decide +kernel)⟩

theorem Config.tol_nonneg : 0 ≤ Config.tol := by
  rw [Config.tol, Rat.mkRat_eq_div]
  positivity

/-! ## The quotient (log 2, 4) -/

theorem Number.div_val {x y : Number} (hy : y.val ≠ 0) (h : storable (x.val / y.val) = true) :
    (Number.div x y).val = x.val / y.val := by
  rw [Number.div, if_neg hy, Number.result_val h]

/-! ## The square root (R14; log 3) -/

/-- The digits built are the integer square root, if it lies in the range the digits can reach. -/
theorem isqrtDigits_eq_sqrt (n b acc : Nat) (hlo : acc * acc ≤ n) (hhi : n < (acc + 2 ^ b) * (acc + 2 ^ b)) :
    isqrtDigits n b acc = Nat.sqrt n := by
  induction b generalizing acc with
  | zero => exact Nat.eq_sqrt.mpr ⟨hlo, by rw [isqrtDigits]; simpa using hhi⟩
  | succ b ih =>
    have hdouble : 2 ^ (b + 1) = 2 ^ b + 2 ^ b := by ring
    rw [isqrtDigits]
    split
    · rename_i h; exact ih _ h (by rwa [add_assoc, ← hdouble])
    · rename_i h; exact ih _ hlo (Nat.lt_of_not_le h)

theorem isqrt_eq_sqrt (n : Nat) : isqrt n = Nat.sqrt n := by
  refine isqrtDigits_eq_sqrt n _ 0 (Nat.zero_le _) ?_
  calc n < 2 ^ (Nat.log2 n + 1) := Nat.lt_log2_self
    _ ≤ 2 ^ (Nat.log2 n / 2 + 1 + (Nat.log2 n / 2 + 1)) := Nat.pow_le_pow_right two_pos (by omega)
    _ = (0 + 2 ^ (Nat.log2 n / 2 + 1)) * (0 + 2 ^ (Nat.log2 n / 2 + 1)) := by rw [Nat.zero_add, pow_add]

/-- The integer square roots of the numerator and the denominator of a square make its root. -/
theorem mkRat_isqrt_mul_self {q : ℚ} (h : 0 ≤ q) : mkRat (isqrt (q * q).num.natAbs) (isqrt (q * q).den) = q := by
  rw [isqrt_eq_sqrt, isqrt_eq_sqrt, Rat.mul_self_num, Rat.mul_self_den, Int.natAbs_mul, Nat.sqrt_eq, Nat.sqrt_eq,
    Int.natAbs_of_nonneg (Rat.num_nonneg.mpr h), Rat.mkRat_self]

theorem Number.sqrt_nonneg (x : Number) : 0 ≤ (Number.sqrt x).val := by
  have hroot : (0 : ℚ) ≤ mkRat (isqrt x.val.num.natAbs) (isqrt x.val.den) := by rw [Rat.mkRat_eq_div]; positivity
  unfold Number.sqrt
  simp only
  split
  · cases h : Number.ofRat? (mkRat (isqrt x.val.num.natAbs) (isqrt x.val.den)) with
    | none => exact Number.ofFreeNonneg_nonneg _
    | some r => rwa [Option.getD_some, Number.ofRat?_eq_some.mp h]
  · exact Number.ofFreeNonneg_nonneg _

theorem Number.sqrt_of_square {x y : Number} (hx : x.val = y.val * y.val) (hy : 0 ≤ y.val) : Number.sqrt x = y := by
  unfold Number.sqrt
  simp only [hx, mkRat_isqrt_mul_self hy, if_true, Number.ofRat?_val, Option.getD_some]

/-! ## `atan2` (R14; log 3) -/

theorem Number.atan2_zero (r : Number) : Number.atan2 Number.zero r = if r.val < 0 then Number.pi else Number.zero :=
  if_pos rfl

theorem Number.atan2_mem (i r : Number) :
    -Number.pi.val < (Number.atan2 i r).val ∧ (Number.atan2 i r).val ≤ Number.pi.val := by
  have hpi : 0 < Number.pi.val := lt_of_lt_of_le (by norm_num) Number.pi_bounds.1
  have hpi_mem : -Number.pi.val < Number.pi.val ∧ Number.pi.val ≤ Number.pi.val := ⟨by linarith, le_rfl⟩
  have hzero_mem : -Number.pi.val < Number.zero.val ∧ Number.zero.val ≤ Number.pi.val := ⟨neg_lt_zero.mpr hpi, hpi.le⟩
  unfold Number.atan2
  simp only
  split
  · split
    · exact hpi_mem
    · exact hzero_mem
  · split
    · assumption
    · exact hpi_mem

end Sys2Proof

namespace Sys2Proof.Machine

/-! ## The record of `binary32` -/

@[simp] theorem numerics_add (x y : Number) : numerics.add x y = Number.add x y := rfl

@[simp] theorem numerics_sub (x y : Number) : numerics.sub x y = Number.sub x y := rfl

@[simp] theorem numerics_mul (x y : Number) : numerics.mul x y = Number.mul x y := rfl

@[simp] theorem numerics_div (x y : Number) : numerics.div x y = Number.div x y := rfl

@[simp] theorem numerics_neg (x : Number) : numerics.neg x = Number.neg x := rfl

@[simp] theorem numerics_sqrt (x : Number) : numerics.sqrt x = Number.sqrt x := rfl

@[simp] theorem numerics_atan2 (i r : Number) : numerics.atan2 i r = Number.atan2 i r := rfl

@[simp] theorem numerics_ofNat (n : Nat) : numerics.ofNat n = Number.ofNat n := rfl

@[simp] theorem numerics_lt (x y : Number) : numerics.lt x y = decide (x.val < y.val) := rfl

/-- `pi` by the fixed point of R14 is the stored `pi`. -/
theorem numerics_pi : numerics.pi = Number.pi := by
  have hneg : (Number.neg (Number.ofNat 1)).val < 0 := by rw [Number.neg_val, Number.ofNat_small (by norm_num)]; norm_num
  rw [Numerics.pi, numerics_atan2, numerics_neg, numerics_ofNat, numerics_ofNat, Number.ofNat_zero, Number.atan2_zero,
    if_pos hneg]

/-- The fixed points of R14 and the bounds of R5 and R195 in `binary32`. -/
theorem lawful_binary32 : binary32.Lawful where
  atan2_origin := by
    rw [binary32_ops, numerics_atan2, numerics_ofNat, Number.ofNat_zero, Number.atan2_zero,
      if_neg (show ¬ Number.zero.val < 0 from lt_irrefl _)]
  atan2_negative r hr := by
    rw [binary32_ops, numerics_lt, numerics_ofNat, Number.ofNat_zero, decide_eq_true_eq] at hr
    rw [binary32_ops, numerics_atan2, numerics_ofNat, Number.ofNat_zero, Number.atan2_zero,
      if_pos (show r.val < 0 from hr), numerics_pi]
  eps_pos := by
    rw [binary32_ops, numerics_lt, numerics_ofNat, Number.ofNat_zero]
    exact decide_eq_true cfgEps_bounds.1
  eps_le := by
    have heighth : (Number.div (Number.ofNat 1) (Number.ofNat 8)).val = 1 / 8 := by
      have h8 : (Number.ofNat 8).val = 8 := Number.ofNat_two_pow (k := 3) (by norm_num)
      have h1 : (Number.ofNat 1).val = 1 := Number.ofNat_two_pow (k := 0) (by norm_num)
      rw [Number.div_val (by rw [h8]; norm_num) (by rw [h1, h8]; decide +kernel), h1, h8]
    rw [binary32_ops, numerics_lt, numerics_div, numerics_ofNat, numerics_ofNat, heighth]
    exact decide_eq_false (not_lt.mpr cfgEps_bounds.2)
  grad_nonneg mags u v n := by
    rw [binary32_ops, numerics_lt, numerics_ofNat, Number.ofNat_zero]
    exact decide_eq_false (not_lt.mpr (Number.ofFreeNonneg_nonneg _))
  tol_nonneg := Config.tol_nonneg

/-- The same over the reals: `Complex.arg` on the real axis. -/
theorem lawful_of_isReference {M : NumSystem ℝ ℝ} (hM : IsReference M) : M.Lawful where
  atan2_origin := by
    rw [hM.ops, realNumerics_atan2, realNumerics_ofNat, Nat.cast_zero]
    exact Complex.arg_zero
  atan2_negative r hr := by
    rw [hM.ops, realNumerics_lt, realNumerics_ofNat, Nat.cast_zero, decide_eq_true_eq] at hr
    rw [hM.ops, realNumerics_pi, realNumerics_atan2, realNumerics_ofNat, Nat.cast_zero]
    exact Complex.arg_ofReal_of_neg hr
  eps_pos := by simpa [hM.ops] using hM.eps_pos
  eps_le := by simpa [hM.ops] using hM.eps_le
  grad_nonneg mags u v n := by simpa [hM.ops] using hM.grad_nonneg mags u v n
  tol_nonneg := hM.tol.ge

/-! ## The obligations -/

/-- Settles O47: a storable exact result is the result, and a number's negation is storable. -/
theorem arithmeticIsExactWhereStorable : Obligations.ArithmeticIsExactWhereStorable := by
  intro x y
  simp only [numerics_add, numerics_sub, numerics_mul, numerics_div, numerics_neg]
  exact ⟨Number.result_val, Number.result_val, Number.result_val, Number.div_val, Number.neg_val x⟩

/-- Settles O48: the laws of both number systems, and the clauses on `atan2`, `sqrt` and `pi` of `binary32`. -/
theorem elementaryFixedPoints : Obligations.ElementaryFixedPoints := by
  unfold Obligations.ElementaryFixedPoints
  simp only [numerics_pi, numerics_atan2, numerics_sqrt]
  exact ⟨lawful_binary32, fun _ => lawful_of_isReference, Number.atan2_zero, Number.atan2_mem, Number.sqrt_nonneg,
    fun _ _ _ hx hy => Number.sqrt_of_square hx hy, Number.pi_bounds⟩

end Sys2Proof.Machine
end

section
/-! SUPPORT. Everything a command can do to the state, said once (`CommandEffect`), and the induction over the turns of a
step that invariants are proved by (`StepInvariant`). -/

namespace Sys2Proof.Machine

variable {α ω : Type} (M : NumSystem α ω)

/-! ## Computing on buffers -/

/-- `t` is `s` but for the contents of the buffers, the count of dispatches, `PP` and the filter bank's flags. -/
structure OnlyBuffers (s t : State α ω) : Prop where
  rest : { t with planes := s.planes, spectra := s.spectra, ustep := s.ustep, pp := s.pp, fbValid := s.fbValid
                  fbKey := s.fbKey } = s

/-- As `OnlyBuffers`, with `PP` as before or 0: what the dispatches of a whole command, or a window write, leave. -/
structure Computes (s t : State α ω) : Prop extends OnlyBuffers s t where
  parity : t.pp = s.pp ∨ t.pp = false

variable {M} {s t : State α ω}

theorem OnlyBuffers.session (h : OnlyBuffers s t) : t.session = s.session := (congrArg State.session h.rest :)

theorem OnlyBuffers.lastErr (h : OnlyBuffers s t) : t.lastErr = s.lastErr := (congrArg State.lastErr h.rest :)

theorem OnlyBuffers.errLog (h : OnlyBuffers s t) : t.errLog = s.errLog := (congrArg State.errLog h.rest :)

/-- The permute and the passes along an axis are dispatches on the work buffers (R169 of 41). -/
theorem OnlyBuffers.axisPasses (h : OnlyBuffers s t) (ax : Axis) (j : Nat) : OnlyBuffers s (ax.passes M j t) := by
  have hpermute : OnlyBuffers s (t.pingPong (ax.permute M)) := by cases ax <;> exact ⟨h.rest⟩
  have hpass (i : Nat) (u : State α ω) (hu : OnlyBuffers s u) :
      OnlyBuffers s (u.pingPong fun d a => ax.pass M d a (i + 1)) := by cases ax <;> exact ⟨hu.rest⟩
  exact State.passes_induction hpass j _ hpermute

theorem OnlyBuffers.rowsAndColumns (h : OnlyBuffers s t) : OnlyBuffers s (t.rowsAndColumns M) :=
  (h.axisPasses .row _).axisPasses .col _

theorem OnlyBuffers.storeReal (h : OnlyBuffers s t) (d : Plane) : OnlyBuffers s (t.storeReal M d) := ⟨h.rest⟩

theorem State.pp_storeReal (d : Plane) (s : State α ω) : (s.storeReal M d).pp = s.pp := rfl

theorem Computes.refl (s : State α ω) : Computes s s := ⟨⟨rfl⟩, .inl rfl⟩

theorem Computes.dispatchP (h : Computes s t) (d : Plane) (lane : Nat → Nat → α) : Computes s (t.dispatchP d lane) :=
  ⟨⟨h.rest⟩, h.parity⟩

theorem Computes.dispatchS (h : Computes s t) (d : Spectrum) (lane : Nat → Nat → Cplx α) :
    Computes s (t.dispatchS d lane) := ⟨⟨h.rest⟩, h.parity⟩

theorem Computes.planeTouched (h : Computes s t) (d : Plane) : Computes s (t.planeTouched d) := by
  rw [State.planeTouched_eq]; exact ⟨⟨h.rest⟩, h.parity⟩

theorem Computes.writePlane (h : Computes s t) (p : Plane) (idx : Nat) (v : α) : Computes s (t.writePlane p idx v) :=
  ⟨⟨h.rest⟩, h.parity⟩

theorem Computes.writeSpec (h : Computes s t) (q : Spectrum) (idx : Nat) (z : Cplx α) : Computes s (t.writeSpec q idx z) :=
  ⟨⟨h.rest⟩, h.parity⟩

/-! ## The macros

FFT.FWD and FFT.INV set `PP` to 0, and their permutes and passes flip it an even number of times (R169 of 41). -/

theorem Computes.fftForward (h : Computes s t) (d : Spectrum) (a : Plane) : Computes s (t.fftForward M d a) := by
  have hload : OnlyBuffers s (t.loadCentred M a) := ⟨h.rest⟩
  rw [State.fftForward_eq]
  exact ⟨⟨hload.rowsAndColumns.rest⟩, .inr (State.pp_rowsAndColumns (t.loadCentred M a))⟩

theorem Computes.fftInverse (h : Computes s t) (d : Plane) (a : Spectrum) : Computes s (t.fftInverse M d a) := by
  have hload : OnlyBuffers s (t.loadConj M a) := ⟨h.rest⟩
  rw [State.fftInverse_eq]
  exact ⟨hload.rowsAndColumns.storeReal d,
    .inr ((State.pp_storeReal d _).trans (State.pp_rowsAndColumns (t.loadConj M a)))⟩

theorem Computes.forLevels (h : Computes s t) {op : Nat → State α ω → State α ω}
    (hop : ∀ i u, Computes s u → Computes s (op i u)) (k : Nat) : Computes s (State.forLevels op k t) :=
  State.forLevels_induction hop k t h

theorem Computes.genFilt (h : Computes s t) : Computes s (t.genFilt M) := by
  have hmasks := h.forLevels (op := fun i u => u.genMask M (.mask (levelIndex i)) i)
    (fun _ _ hu => hu.dispatchP _ _) t.snap.levels
  exact ⟨⟨hmasks.rest⟩, hmasks.parity⟩

theorem Computes.refreshBank [DecidableEq α] (h : Computes s t) : Computes s (t.refreshBank M) := by
  unfold State.refreshBank
  split
  · exact h
  · exact h.genFilt

theorem Computes.decompose [DecidableEq α] (h : Computes s t) : Computes s (t.decompose M) := by
  have hbands := h.refreshBank (M := M) |>.forLevels (op := fun i u =>
      (u.mulM M (.bcur (levelIndex i)) .scur (.mask (levelIndex i))).mulM M
        (.bprv (levelIndex i)) .sprv (.mask (levelIndex i)))
    (fun _ _ hu => (hu.dispatchS _ _).dispatchS _ _) t.snap.levels
  have hamp := hbands.forLevels (op := fun i u =>
      u.amplify M (.bprc (levelIndex i)) (.bcur (levelIndex i)) (.bprv (levelIndex i)))
    (fun _ _ hu => hu.dispatchS _ _) t.snap.levels
  exact (hamp.dispatchS _ _).forLevels (fun _ _ hu => hu.dispatchS _ _) t.snap.levels

theorem Computes.diagnose (h : Computes s t) : Computes s (t.diagnose M) := by
  unfold State.diagnose
  split
  · exact h.dispatchP _ _
  · split
    · exact h.dispatchP _ _
    · exact h

theorem Computes.steadyFrame [DecidableEq α] (h : Computes s t) : Computes s (t.steadyFrame M) := by
  have hspec := (h.fftForward (M := M) .scur .lin).fftForward (M := M) .sprv .lprev
  have hmod : Computes s (if t.snap.pyr then ((t.fftForward M .scur .lin).fftForward M .sprv .lprev).decompose M
      else ((t.fftForward M .scur .lin).fftForward M .sprv .lprev).amplify M .smod .scur .sprv) := by
    split
    · exact hspec.decompose
    · exact hspec.dispatchS _ _
  exact (hmod.fftInverse _ _).diagnose.dispatchP _ _

/-! ## Commands -/

variable (M) in
/-- What running a command leaves of the state `s`, said by the way the command ends. -/
inductive CommandEffect (s : State α ω) : State α ω → Prop
  /-- It computed on the buffers and completed. -/
  | computed {u : State α ω} (h : Computes s u) : CommandEffect s u.complete
  /-- A check failed (R250 of 44). -/
  | abandoned (e : CmdError) : CommandEffect s (s.abandon e)
  /-- TBL.BREV completed (R132 of 40). -/
  | filledBrt : CommandEffect s s.fillBrt.complete
  /-- TBL.TWID completed (R133 of 40). -/
  | filledTwt : CommandEffect s (s.fillTwt M).complete
  /-- FRAME completed in `Ready` (R255 of 44). -/
  | firstFrame (h : s.session = .ready) : CommandEffect s (s.firstFrame M).complete
  /-- INIT failed (R252 of 44). -/
  | initFailed (e : CmdError) : CommandEffect s (s.failInit e)
  /-- INIT succeeded on a canvas of size `2^k` (R252 of 44). -/
  | started {k : Nat} (hpos : 1 ≤ k) (hmax : k ≤ Config.lognMax) : CommandEffect s (s.startSession M k).complete
  /-- SHUTDOWN completed (R253 of 44). -/
  | shutdown : CommandEffect s
      ({ s.forget.undefineCanvas with session := .uninitialized, fbValid := false, pp := false } : State α ω).complete

/-- A command that checks its operands and then runs: abandoned, or what its run leaves. -/
theorem CommandEffect.of_finish {β : Type} {r : Except CmdError β} {f : β → Except CmdError (State α ω)}
    (h : s.finish (r >>= f) = .next t) (hf : ∀ x, ∃ u, f x = .ok u ∧ CommandEffect M s u.complete) :
    CommandEffect M s t := by
  cases r with
  | error e => cases h; exact .abandoned e
  | ok x =>
    obtain ⟨u, hu, heff⟩ := hf x
    have hnext : s.finish (f x) = .next t := h
    rw [hu] at hnext
    cases hnext
    exact heff

theorem CommandEffect.init (h : Meaning.init M s = .next t) : CommandEffect M s t := by
  unfold Meaning.init at h
  simp only at h
  split at h
  · cases h; exact .initFailed _
  · rename_i hcanvas
    split at h
    · cases h; exact .initFailed _
    · rename_i hcapacity
      cases h
      have hw : 2 ≤ s.snap.canvasW.toNat := by omega
      exact .started ((Nat.le_log2 (by omega)).mpr hw) (by omega)

theorem CommandEffect.frame [DecidableEq α] (h : Meaning.frame M s = .next t) : CommandEffect M s t := by
  unfold Meaning.frame at h
  cases hs : s.session with
  | uninitialized => rw [hs] at h; cases h; exact .abandoned _
  | ready => rw [hs] at h; cases h; exact .firstFrame hs
  | steadyState => rw [hs] at h; cases h; exact .computed (Computes.refl s).steadyFrame

/-- Everything a command can do. -/
theorem commandEffect_execOver [DecidableEq α] {i : Instr} (h : execOver M i s = .next t) : CommandEffect M s t := by
  have hs := Computes.refl s
  cases i with
  | nop => cases h; exact .computed hs
  | init => exact .init h
  | shutdown => cases h; exact .shutdown
  | frame => exact .frame h
  | tblBrev => exact .of_finish h fun _ => ⟨_, rfl, .filledBrt⟩
  | tblTwid => exact .of_finish h fun _ => ⟨_, rfl, .filledTwt⟩
  | widen | center | conj | scale | copyS | zero | add | mulM | brevRow | brevCol | bflyRow | bflyCol | pamp =>
    exact .of_finish h fun _ => ⟨_, rfl, .computed (hs.dispatchS _ _)⟩
  | toMag | toPhase | toReal | copyP | genMask =>
    exact .of_finish h fun _ => ⟨_, rfl, .computed ((hs.dispatchP _ _).planeTouched _)⟩
  | fftFwd => exact .of_finish h fun _ => ⟨_, rfl, .computed (hs.fftForward _ _)⟩
  | fftInv => exact .of_finish h fun _ => ⟨_, rfl, .computed ((hs.fftInverse _ _).planeTouched _)⟩
  | genFilt => exact .of_finish h fun _ => ⟨_, rfl, .computed hs.genFilt⟩

/-- Everything running the accepted word can do. -/
theorem commandEffect_runCurrent [DecidableEq α] (h : s.runCurrent M = .next t) : CommandEffect M s t := by
  rcases State.runCurrent_cases M s with ⟨i, -, hrun⟩ | ⟨-, hrun⟩ <;> rw [hrun] at h
  · exact commandEffect_execOver h
  · cases h; exact .abandoned _

/-! ## Invariants -/

/-- `P` is kept by everything that a turn can do: host accesses to registers, acceptance, admitted window writes and
dispatches, the end of a command, reset, and the model's own inputs. -/
structure StepInvariant (M : NumSystem α ω) (P : State α ω → Prop) : Prop where
  agenda : ∀ {s : State α ω} (l : List (Turn ω)), P s → P { s with agenda := l }
  resources : ∀ {s : State α ω} (ok : Bool), P s → P { s with resOk := ok }
  registers : ∀ {s t : State α ω}, OnlyRegisters s t → P s → P t
  accept : ∀ {s : State α ω} (w : Word), P s → P (s.accept M w)
  computes : ∀ {s t : State α ω}, Computes s t → P s → P t
  command : ∀ {s t : State α ω}, CommandEffect M s t → P s → P t
  reset : ∀ s : State α ω, P (s.resetEvent M)

theorem StepInvariant.hostAccess [DecidableEq α] {P : State α ω → Prop} (hP : StepInvariant M P) {x : HostAccess ω}
    (h : s.hostAccess M x = .next t) (hs : P s) : P t := by
  have hid := Computes.refl s
  rcases State.hostAccess_cases M h with hreg | ⟨-, w, rfl⟩ | ⟨p, -, rfl⟩ | ⟨p, v, -, rfl⟩ | ⟨q, z, -, rfl⟩
  · exact hP.registers hreg hs
  · exact hP.accept w hs
  · exact hP.computes (hid.planeTouched p) hs
  · exact hP.computes ((hid.writePlane _ _ _).planeTouched p) hs
  · exact hP.computes (hid.writeSpec _ _ _) hs

/-- A step keeps every such `P`. -/
theorem StepInvariant.stepOver [DecidableEq α] {P : State α ω → Prop} (hP : StepInvariant M P)
    (h : stepOver M s = .next t) (hs : P s) : P t := by
  have htail : P { s with agenda := s.agenda.tail } := hP.agenda _ hs
  rcases stepOver_cases M h with ⟨-, rfl, -⟩ | ⟨-, hrun, -⟩ | ⟨x, -, hx⟩ | ⟨-, rfl⟩ | ⟨ok, -, rfl⟩
  · exact htail
  · exact hP.command (commandEffect_runCurrent hrun) htail
  · exact hP.hostAccess hx htail
  · exact hP.reset _
  · exact hP.resources ok htail

end Sys2Proof.Machine
end

section
/-! The invariants of the session's tables and of the flags (O44, O46, O42): both are kept by every turn, over any number
system, and hold at reset. -/

namespace Sys2Proof.Machine

variable {α ω : Type} {M : NumSystem α ω} {s t : State α ω}

/-! ## The tables of a session (R24, R30 of 10, R252 of 44) -/

/-- `t` has the canvas and the tables of `s`, and a session only if `s` has one. -/
structure KeepsTables (s t : State α ω) : Prop where
  session : t.session ≠ .uninitialized → s.session ≠ .uninitialized
  logn : t.logn = s.logn
  epoch : t.epoch = s.epoch
  brt : t.brt = s.brt
  twt : t.twt = s.twt

theorem OnlyBuffers.keepsTables (h : OnlyBuffers s t) : KeepsTables s t where
  session := h.session ▸ id
  logn := (congrArg State.logn h.rest :)
  epoch := (congrArg State.epoch h.rest :)
  brt := (congrArg State.brt h.rest :)
  twt := (congrArg State.twt h.rest :)

theorem OnlyRegisters.session (h : OnlyRegisters s t) : t.session = s.session := (congrArg State.session h.rest :)

theorem OnlyRegisters.keepsTables (h : OnlyRegisters s t) : KeepsTables s t where
  session := h.session ▸ id
  logn := (congrArg State.logn h.rest :)
  epoch := (congrArg State.epoch h.rest :)
  brt := (congrArg State.brt h.rest :)
  twt := (congrArg State.twt h.rest :)

theorem SessionTables.of_keepsTables (h : SessionTables M s) (hk : KeepsTables s t) : SessionTables M t := by
  intro hopen
  obtain ⟨hpos, hmax, hbrt, htwt⟩ := h (hk.session hopen)
  have hn : t.n = s.n := congrArg (2 ^ ·.val) hk.logn
  rw [hk.logn, hn]
  exact ⟨hpos, hmax, fun i hi => (State.brtEntry_congr hk.brt hk.epoch hk.logn i).trans (hbrt i hi),
    fun k hlt => (State.twtEntry_congr M hk.twt hk.epoch k).trans (htwt k hlt)⟩

/-- TBL.BREV writes what the table holds (R132 of 40). -/
theorem SessionTables.fillBrt (h : SessionTables M s) : SessionTables M s.fillBrt := by
  intro hopen
  obtain ⟨hpos, hmax, -, htwt⟩ := h hopen
  exact ⟨hpos, hmax, fun i hi => (State.brtEntry_dispatchBrt s _ i).trans (if_pos hi), htwt⟩

/-- TBL.TWID writes what the table holds (R133 of 40). -/
theorem SessionTables.fillTwt (h : SessionTables M s) : SessionTables M (s.fillTwt M) := by
  intro hopen
  obtain ⟨hpos, hmax, hbrt, -⟩ := h hopen
  exact ⟨hpos, hmax, hbrt, fun k hk => (State.twtEntry_dispatchTwt M s _ k).trans (if_pos hk)⟩

theorem sessionTables_of_uninitialized (h : s.session = .uninitialized) : SessionTables M s := fun hopen => absurd h hopen

theorem State.startSession_logn {k : Nat} (hk : k ≤ Config.lognMax) : (s.startSession M k).logn.val = k :=
  Nat.mod_eq_of_lt (Nat.lt_succ_of_le (hk.trans Config.lognMax_le))

/-- INIT leaves the tables of the new canvas (R252 of 44). -/
theorem sessionTables_startSession {k : Nat} (hpos : 1 ≤ k) (hmax : k ≤ Config.lognMax) :
    SessionTables M (s.startSession M k) := by
  have hk : (s.startSession M k).logn.val = k := State.startSession_logn hmax
  exact sessionTables_fill M (s := { s.forget with logn := Fin.ofNat 17 k, session := .ready })
    (hk.symm ▸ hpos) (hk.symm ▸ hmax)

theorem CommandEffect.sessionTables (h : CommandEffect M s t) (hs : SessionTables M s) : SessionTables M t := by
  cases h with
  | computed hu => exact (hs.of_keepsTables hu.keepsTables : SessionTables M _)
  | abandoned e => exact hs
  | filledBrt => exact hs.fillBrt
  | filledTwt => exact hs.fillTwt
  | firstFrame hready => exact fun _ => hs (by rw [hready]; decide)
  | initFailed e => exact sessionTables_of_uninitialized rfl
  | started hpos hmax => exact sessionTables_startSession hpos hmax
  | shutdown => exact sessionTables_of_uninitialized rfl

theorem stepInvariant_sessionTables : StepInvariant M (SessionTables M) where
  agenda _ hs := hs
  resources _ hs := hs
  registers h hs := hs.of_keepsTables h.keepsTables
  accept _ hs := hs
  computes h hs := hs.of_keepsTables h.keepsTables
  command := CommandEffect.sessionTables
  reset _ := sessionTables_of_uninitialized rfl

/-! ## The flags (R35 of 10, R280 of 60, R169 of 41) -/

/-- Logging an error of R280 sets a bit from 1 to 7. -/
theorem FlagsLegal.logError (h : FlagsLegal s) {e : Nat} (hpos : 1 ≤ e) (hle : e ≤ 7) : FlagsLegal (s.logError e) := by
  obtain ⟨hpp, herr, hlog⟩ := h
  refine ⟨hpp, herr, fun k hk hbit => ?_⟩
  rw [State.getLsbD_logError s e k hk, Bool.or_eq_true, decide_eq_true_eq] at hbit
  rcases hbit with hold | rfl
  · exact hlog k hk hold
  · exact ⟨hpos, hle⟩

/-- The error codes of commands are 1 to 5, and fit `LASTERR` (R280 of 60). -/
theorem CmdError.code_bounds (e : CmdError) : 1 ≤ e.code ∧ e.code ≤ 5 := by cases e <;> decide

theorem FlagsLegal.abandon (h : FlagsLegal s) (e : CmdError) : FlagsLegal (s.abandon e) := by
  have hcode := e.code_bounds
  obtain ⟨hpp, -, hlog⟩ := h.logError hcode.1 (hcode.2.trans (by decide))
  refine ⟨hpp, ?_, hlog⟩
  show (BitVec.ofNat 4 e.code).toNat ≤ 5
  rw [BitVec.toNat_ofNat]
  exact (Nat.mod_le _ _).trans hcode.2

theorem Computes.flagsLegal (h : Computes s t) (hs : FlagsLegal s) : FlagsLegal t := by
  obtain ⟨hpp, herr, hlog⟩ := hs
  exact ⟨h.parity.elim (·.trans hpp) id, h.lastErr ▸ herr, h.errLog ▸ hlog⟩

theorem OnlyRegisters.flagsLegal (h : OnlyRegisters s t) (hs : FlagsLegal s) : FlagsLegal t := by
  have hpp : t.pp = s.pp := (congrArg State.pp h.rest :)
  have herr : t.lastErr = s.lastErr := (congrArg State.lastErr h.rest :)
  have hall {u : State α ω} (hu : FlagsLegal u) (h1 : u.pp = s.pp) (h2 : u.lastErr = s.lastErr)
      (hlog : t.errLog = u.errLog) : FlagsLegal t := by
    unfold FlagsLegal
    rw [hpp, herr, hlog, ← h1, ← h2]
    exact hu
  rcases h.log with hlog | hlog | hlog
  · exact hall hs rfl rfl hlog
  · exact hall (hs.logError (e := overrunCode) (by decide) (by decide)) rfl rfl hlog
  · exact hall (hs.logError (e := hostAccCode) (by decide) (by decide)) rfl rfl hlog

theorem CommandEffect.flagsLegal (h : CommandEffect M s t) (hs : FlagsLegal s) : FlagsLegal t := by
  cases h with
  | computed hu => exact hu.flagsLegal hs
  | abandoned e => exact hs.abandon e
  | filledBrt => exact hs
  | filledTwt => exact hs
  | firstFrame _ => exact hs
  | initFailed e =>
    exact FlagsLegal.abandon (s := { s.forget.undefineCanvas with session := .uninitialized, fbValid := false }) hs e
  | started _ _ => exact ⟨rfl, hs.2⟩
  | shutdown => exact ⟨rfl, hs.2⟩

/-- The flags as reset leaves them (R41 of 10). -/
theorem flagsLegal_initial (zero : α) (unread : ω) (regs : Regs ω) : FlagsLegal (State.initial zero unread regs) :=
  ⟨rfl, Nat.zero_le 5, fun k _ h => absurd h (by simp [State.initial])⟩

theorem stepInvariant_flagsLegal : StepInvariant M (FlagsLegal : State α ω → Prop) where
  agenda _ hs := hs
  resources _ hs := hs
  registers := OnlyRegisters.flagsLegal
  accept _ hs := by obtain ⟨hpp, -, hlog⟩ := hs; exact ⟨hpp, Nat.zero_le 5, hlog⟩
  computes := Computes.flagsLegal
  command := CommandEffect.flagsLegal
  reset _ := flagsLegal_initial (M.ops.ofNat 0) (M.ofWord 0) M.resetRegs

/-! ## The obligations -/

/-- Settles O44: the tables are an invariant of every turn. -/
theorem stepKeepsSessionTables : Obligations.StepKeepsSessionTables :=
  fun _ _ hs h => stepInvariant_sessionTables.stepOver h hs

/-- Settles O46: the flags are an invariant of every turn. -/
theorem stepKeepsFlagsLegal : Obligations.StepKeepsFlagsLegal :=
  fun _ _ hs h => stepInvariant_flagsLegal.stepOver h hs

/-- Settles O42: after reset nothing is stored, no session is open, no command runs and no flag is set. -/
theorem resetMeetsInvariants : Obligations.ResetMeetsInvariants :=
  ⟨reset_memories_wf, sessionTables_of_uninitialized rfl, fun hbusy => Bool.noConfusion hbusy,
    fun hvalid => Bool.noConfusion hvalid, flagsLegal_initial _ _ _⟩

end Sys2Proof.Machine
end

section
/-! The register map (O12, O13): which names the offsets of R32 have, and what a register marked RW reads after a write of
it and of another, over any number system. -/

namespace Sys2Proof.Machine

variable {α ω : Type} (M : NumSystem α ω) {s : State α ω}

/-! ## The registers marked RW (R32, R37 of 10) -/

/-- For a register marked RW other than the window's data registers, whether it holds a `Num`. -/
def RegName.rw : RegName → Option Bool
  | .ctrl | .canvasW | .canvasH | .pyrLevels | .hbSel | .hbIdx => some false
  | .minFreq | .maxFreq | .phaseScale | .magThresh | .magScale | .lowCut | .highCut | .steepness | .motionSens
  | .edgeEnh => some true
  | _ => none

/-- What a register marked RW reads. -/
def Regs.get (g : Regs ω) : RegName → ω
  | .ctrl => M.ofWord g.ctrl
  | .canvasW => M.ofWord g.canvasW
  | .canvasH => M.ofWord g.canvasH
  | .pyrLevels => M.ofWord g.pyrLevels
  | .minFreq => g.minFreq
  | .maxFreq => g.maxFreq
  | .phaseScale => g.phaseScale
  | .magThresh => g.magThresh
  | .magScale => g.magScale
  | .lowCut => g.lowCut
  | .highCut => g.highCut
  | .steepness => g.steepness
  | .motionSens => g.motionSens
  | .edgeEnh => g.edgeEnh
  | .hbSel => M.ofWord g.hbSel
  | .hbIdx => M.ofWord g.hbIdx
  | _ => M.ofWord 0

/-- The registers after a write of one that holds a word. -/
def Regs.setWord (g : Regs ω) (w : Word) : RegName → Regs ω
  | .ctrl => { g with ctrl := w }
  | .canvasW => { g with canvasW := w }
  | .canvasH => { g with canvasH := w }
  | .pyrLevels => { g with pyrLevels := w }
  | .hbSel => { g with hbSel := w }
  | .hbIdx => { g with hbIdx := w }
  | _ => g

/-- The registers after a write of one that holds a `Num`. -/
def Regs.setNum (g : Regs ω) (x : ω) : RegName → Regs ω
  | .minFreq => { g with minFreq := x }
  | .maxFreq => { g with maxFreq := x }
  | .phaseScale => { g with phaseScale := x }
  | .magThresh => { g with magThresh := x }
  | .magScale => { g with magScale := x }
  | .lowCut => { g with lowCut := x }
  | .highCut => { g with highCut := x }
  | .steepness => { g with steepness := x }
  | .motionSens => { g with motionSens := x }
  | .edgeEnh => { g with edgeEnh := x }
  | _ => g

variable {M} {r r' : RegName} {num : Bool}

theorem State.readReg_rw [DecidableEq α] (hr : r.rw = some num) : s.readReg M r = { s with rdata := s.regs.get M r } := by
  cases r with
  | cmd | status | errLog | hbRe | hbIm => cases hr
  | _ => rfl

theorem State.writeReg_word {w : Word} {x : ω} (hr : r.rw = some false) (hx : M.toWord x = some w) :
    s.writeReg M r x = .next { s with regs := s.regs.setWord w r } := by
  cases r with
  | ctrl | canvasW | canvasH | pyrLevels | hbSel | hbIdx => simp only [State.writeReg, withWord, hx, Regs.setWord]
  | _ => cases hr

theorem State.writeReg_num {x : ω} (hr : r.rw = some true) (hx : (M.dec x).isSome = true) :
    s.writeReg M r x = .next { s with regs := s.regs.setNum x r } := by
  cases r with
  | minFreq | maxFreq | phaseScale | magThresh | magScale | lowCut | highCut | steepness | motionSens | edgeEnh =>
    simp only [State.writeReg, State.writeNum, hx, if_true, Regs.setNum]
  | _ => cases hr

theorem Regs.get_setWord (g : Regs ω) (w : Word) (hr : r.rw = some false) : (g.setWord w r).get M r = M.ofWord w := by
  cases r with
  | ctrl | canvasW | canvasH | pyrLevels | hbSel | hbIdx => rfl
  | _ => cases hr

theorem Regs.get_setNum (g : Regs ω) (x : ω) (hr : r.rw = some true) : (g.setNum x r).get M r = x := by
  cases r with
  | minFreq | maxFreq | phaseScale | magThresh | magScale | lowCut | highCut | steepness | motionSens | edgeEnh => rfl
  | _ => cases hr

theorem Regs.get_setWord_of_ne (g : Regs ω) (w : Word) (hne : r' ≠ r) : (g.setWord w r).get M r' = g.get M r' := by
  cases r with
  | ctrl | canvasW | canvasH | pyrLevels | hbSel | hbIdx =>
    cases r' <;> first | rfl | exact absurd rfl hne
  | _ => rfl

theorem Regs.get_setNum_of_ne (g : Regs ω) (x : ω) (hne : r' ≠ r) : (g.setNum x r).get M r' = g.get M r' := by
  cases r with
  | minFreq | maxFreq | phaseScale | magThresh | magScale | lowCut | highCut | steepness | motionSens | edgeEnh =>
    cases r' <;> first | rfl | exact absurd rfl hne
  | _ => rfl

/-- A write of a register marked RW: it changes nothing but the registers, that register reads what was written, and the
others read as before. -/
theorem State.writeReg_rw {x : ω} (hr : r.rw = some num) (hnum : num = true → (M.dec x).isSome = true)
    (hword : num = false → ∃ w, M.toWord x = some w ∧ M.ofWord w = x) :
    ∃ g, s.writeReg M r x = .next { s with regs := g } ∧ g.get M r = x ∧ ∀ r', r' ≠ r → g.get M r' = s.regs.get M r' := by
  cases num with
  | false =>
    obtain ⟨w, hto, hof⟩ := hword rfl
    exact ⟨_, State.writeReg_word hr hto, (Regs.get_setWord _ w hr).trans hof, fun _ => Regs.get_setWord_of_ne _ w⟩
  | true => exact ⟨_, State.writeReg_num hr (hnum rfl), Regs.get_setNum _ x hr, fun _ => Regs.get_setNum_of_ne _ x⟩

/-! ## Offsets (R32 of 10) -/

/-- An offset of the table of `rwRegisters` is one of register space, and its register is marked RW. -/
theorem regAt_of_mem {off : Nat} (h : (off, num) ∈ rwRegisters) :
    off < 256 ∧ off % 4 = 0 ∧ ∃ r, regAt off = some r ∧ r.rw = some num := by
  have htable : ∀ p ∈ rwRegisters, p.1 < 256 ∧ p.1 % 4 = 0 ∧ (regAt p.1).bind RegName.rw = some p.2 := by decide
  obtain ⟨hlt, hmod, hname⟩ := htable _ h
  exact ⟨hlt, hmod, Option.bind_eq_some_iff.mp hname⟩

/-- Different offsets name different registers. -/
theorem regAt_injOn {off off' : Nat} {num' : Bool} (h : (off, num) ∈ rwRegisters) (h' : (off', num') ∈ rwRegisters)
    (heq : regAt off = regAt off') : off = off' := by
  have htable : ∀ p ∈ rwRegisters, ∀ q ∈ rwRegisters, regAt p.1 = regAt q.1 → p.1 = q.1 := by decide
  exact htable _ h _ h' heq

/-- Every register of the map that is not marked RW is `CMD`, `STATUS`, `ERRLOG` or one of the window's data registers. -/
theorem mem_of_regAt {off : Nat} (h : regAt off = some r) :
    off ∈ [0x00, 0x04, 0x08, 0x68, 0x6C] ∨ ∃ num, (off, num) ∈ rwRegisters := by
  unfold regAt at h
  split at h
  case h_22 => cases h
  all_goals decide

theorem State.hostAccess_write [DecidableEq α] {off : Nat} (hlt : off < 256) (hmod : off % 4 = 0) (hr : regAt off = some r)
    (x : ω) : s.hostAccess M (.write off x) = s.writeReg M r x := by
  simp only [State.hostAccess, atOffset_ok hlt hmod, hr]

theorem State.hostAccess_read [DecidableEq α] {off : Nat} (hlt : off < 256) (hmod : off % 4 = 0) (hr : regAt off = some r) :
    s.hostAccess M (.read off) = .next (s.readReg M r) := by
  simp only [State.hostAccess, atOffset_ok hlt hmod, hr]

theorem readsAs_reserved [DecidableEq α] {off : Nat} (hlt : off < 256) (hmod : off % 4 = 0) (hr : regAt off = none) :
    ReadsAs M s off (M.ofWord 0) := by
  simp only [ReadsAs, State.hostAccess, atOffset_ok hlt hmod, hr]

theorem State.hostAccess_write_reserved [DecidableEq α] {off : Nat} (hlt : off < 256) (hmod : off % 4 = 0)
    (hr : regAt off = none) (x : ω) : s.hostAccess M (.write off x) = .next s := by
  simp only [State.hostAccess, atOffset_ok hlt hmod, hr]

/-- What a register marked RW reads, as a read at its offset. -/
theorem readsAs_iff [DecidableEq α] {off : Nat} {x : ω} (hlt : off < 256) (hmod : off % 4 = 0) (hr : regAt off = some r)
    (hrw : r.rw = some num) : ReadsAs M s off x ↔ s.regs.get M r = x := by
  unfold ReadsAs
  rw [State.hostAccess_read hlt hmod hr, State.readReg_rw hrw]
  constructor
  · intro h
    injection h with h
    exact (congrArg State.rdata h :)
  · rintro rfl
    rfl

/-- A write at the offset of a register marked RW, over any number system in which the register takes the value. -/
theorem write_then_read [DecidableEq α] {off : Nat} {x : ω} (hmem : (off, num) ∈ rwRegisters)
    (hnum : num = true → (M.dec x).isSome = true) (hword : num = false → ∃ w, M.toWord x = some w ∧ M.ofWord w = x) :
    ∃ t, s.hostAccess M (.write off x) = .next t ∧ { t with regs := s.regs } = s ∧ ReadsAs M t off x
      ∧ ∀ off' num', (off', num') ∈ rwRegisters → off' ≠ off → ∀ x', ReadsAs M s off' x' ↔ ReadsAs M t off' x' := by
  obtain ⟨hlt, hmod, r, hr, hrw⟩ := regAt_of_mem hmem
  obtain ⟨g, hwrite, hself, hother⟩ := State.writeReg_rw (s := s) hrw hnum hword
  refine ⟨{ s with regs := g }, (State.hostAccess_write hlt hmod hr x).trans hwrite, rfl,
    (readsAs_iff hlt hmod hr hrw).mpr hself, fun off' num' hmem' hne x' => ?_⟩
  obtain ⟨hlt', hmod', r', hr', hrw'⟩ := regAt_of_mem hmem'
  have hname : r' ≠ r := fun h => hne (regAt_injOn hmem' hmem (by rw [hr, hr', h]))
  rw [readsAs_iff hlt' hmod' hr' hrw', readsAs_iff hlt' hmod' hr' hrw', hother r' hname]

/-! ## The obligations -/

/-- Settles O12: a write and a read of the same and of another register, at `binary32` and over the reals. -/
theorem registerReadsWhatWasWritten : Obligations.RegisterReadsWhatWasWritten := by
  refine ⟨fun s off num w hmem hfinite => ?_, fun M s off num v hM hmem hword => ?_⟩
  · exact write_then_read hmem (fun hnum => (Number.dec?_isSome w).trans (hfinite hnum)) fun _ => ⟨w, rfl, rfl⟩
  · refine write_then_read hmem (fun _ => by rw [hM.dec]; rfl) fun hnum => ?_
    obtain ⟨w, rfl⟩ := hword hnum
    exact ⟨w, (hM.toWord _).trans (realToWord_natCast w), hM.ofWord w⟩

/-- Settles O13: no register of the map has a reserved offset; `STATUS` and `ERRLOG` drop what is written. -/
theorem reservedAndReadOnlyOffsets : Obligations.ReservedAndReadOnlyOffsets := by
  intro s w
  refine ⟨fun off hlt hmod hlist hrw => ?_, rfl, rfl, rfl⟩
  have hnone : regAt off = none := Option.eq_none_iff_forall_ne_some.mpr fun r hr =>
    (mem_of_regAt hr).elim hlist fun ⟨num, hmem⟩ => hrw num hmem
  exact ⟨readsAs_reserved hlt hmod hnone, State.hostAccess_write_reserved hlt hmod hnone w⟩

end Sys2Proof.Machine
end

section
/-! The `STATUS` word (O15): its fields, for whatever is laid out in it. -/

namespace Sys2Proof.Machine

/-! ## Fields of a word (R34 of 10) -/

/-- The number that the fields make, each at its place. -/
def statusNat (busy : Bool) (state : Nat) (pp fbValid : Bool) (lastErr : BitVec 4) (logn : Nat) : Nat :=
  busy.toNat + state * 2 ^ 1 + pp.toNat * 2 ^ 3 + fbValid.toNat * 2 ^ 4 + lastErr.toNat * 2 ^ 8 + logn * 2 ^ 16

section
variable {busy pp fb : Bool} {state logn : Nat} {err : BitVec 4} (hstate : state < 4) (hlogn : logn < 32)
include hstate hlogn

theorem toNat_statusLayout :
    (statusLayout busy state pp fb err logn).toNat = statusNat busy state pp fb err logn := by
  have hbusy := busy.toNat_le
  have hpp := pp.toNat_le
  have hfb := fb.toNat_le
  have herr := err.isLt
  rw [statusLayout, BitVec.toNat_ofNat, Nat.mod_eq_of_lt (by omega), statusNat]

/-- The fields do not overlap: each reads back from the number, and the reserved bits are 0. -/
theorem statusNat_fields {w : Word} (hw : w.toNat = statusNat busy state pp fb err logn) :
    w.getLsbD 0 = busy ∧ (w.extractLsb' 1 2).toNat = state ∧ w.getLsbD 3 = pp ∧ w.getLsbD 4 = fb
      ∧ w.extractLsb' 5 3 = 0#3 ∧ w.extractLsb' 8 4 = err ∧ w.extractLsb' 12 4 = 0#4
      ∧ (w.extractLsb' 16 5).toNat = logn ∧ w.extractLsb' 21 11 = 0#11 := by
  have hbusy := busy.toNat_le
  have hpp := pp.toNat_le
  have hfb := fb.toNat_le
  have herr := err.isLt
  have hbit (k : Nat) (b : Bool) (h : w.toNat / 2 ^ k % 2 = b.toNat) : w.getLsbD k = b := by
    rw [← BitVec.testBit_toNat, Nat.testBit_eq_decide_div_mod_eq, h]
    cases b <;> rfl
  have hnum (start len v : Nat) (h : w.toNat / 2 ^ start % 2 ^ len = v) : (w.extractLsb' start len).toNat = v := by
    rw [BitVec.extractLsb'_toNat, Nat.shiftRight_eq_div_pow, h]
  have hfield (start len : Nat) (v : BitVec len) (h : w.toNat / 2 ^ start % 2 ^ len = v.toNat) :
      w.extractLsb' start len = v := BitVec.eq_of_toNat_eq (hnum start len _ h)
  have hzero (start len : Nat) (h : w.toNat / 2 ^ start % 2 ^ len = 0) : w.extractLsb' start len = 0#len :=
    hfield start len _ (h.trans BitVec.toNat_zero.symm)
  rw [statusNat] at hw
  refine ⟨hbit 0 busy ?_, hnum 1 2 state ?_, hbit 3 pp ?_, hbit 4 fb ?_, hzero 5 3 ?_, hfield 8 4 err ?_,
    hzero 12 4 ?_, hnum 16 5 logn ?_, hzero 21 11 ?_⟩ <;> omega

end

variable {α ω : Type} (s : State α ω)

theorem Session.code_lt (c : Session) : c.code < 4 := by cases c <;> decide

theorem State.lognField_eq : s.lognField = if s.session = .uninitialized then 0 else s.logn.val := by
  unfold State.lognField; split <;> simp_all

theorem State.lognField_lt : s.lognField < 32 := by
  have hlogn := s.logn.isLt
  rw [State.lognField_eq]
  split <;> omega

/-! ## The obligation -/

/-- Settles O15: an idle block shows the word laid out from its own flags. -/
theorem statusFields : Obligations.StatusFields := by
  intro s hidle
  have hread : ReadsAs binary32 s 0x04 s.statusWord := by
    unfold ReadsAs
    rw [State.hostAccess_read (r := .status) (by decide) (by decide) rfl, State.readReg, hidle]
    rfl
  refine ⟨s.statusWord, hread, ?_⟩
  rw [← State.lognField_eq, ← hidle]
  exact statusNat_fields s.session.code_lt s.lognField_lt (toNat_statusLayout s.session.code_lt s.lognField_lt)

end Sys2Proof.Machine
end

section
/-! Acceptance, reset and the effective parameters (O6, O11, O51). -/

namespace Sys2Proof.Machine

/-! ## The effective parameters over the reals (R38 of 10) -/

@[simp] theorem realNumerics_max (x y : ℝ) : realNumerics.max x y = max x y := by
  simp only [Numerics.max, realNumerics_lt, decide_eq_true_eq, max_def_lt]

@[simp] theorem realNumerics_min (x y : ℝ) : realNumerics.min x y = min x y := by
  simp only [Numerics.min, realNumerics_lt, decide_eq_true_eq, min_comm x y, min_def_lt]

@[simp] theorem realNumerics_half : realNumerics.half = 1 / 2 := by simp [Numerics.half]

theorem levels_effective_bounds {α : Type} (K : Numerics α) (e : α) (r : RawConfig α) :
    1 ≤ (effective K e Config.pyrMax r).levels ∧ (effective K e Config.pyrMax r).levels ≤ Config.pyrMax :=
  ⟨le_min (le_max_right _ _) Config.pyrMax_pos, min_le_right _ _⟩

/-- Settles O51: the formulas, then the range of each: an upper limit minus `e` stays above the lower limit. -/
theorem effectiveParametersInRange : Obligations.EffectiveParametersInRange := by
  intro e r hpos hle P
  have hlevels : 1 ≤ P.levels ∧ P.levels ≤ Config.pyrMax := levels_effective_bounds realNumerics e r
  have hfmax : P.fmax = min (max r.maxFreq (2 * e)) (1 / 2) := by simp [P, effective]
  have hfmin : P.fmin = min (max r.minFreq e) (P.fmax - e) := by simp [P, effective]
  have hhi : P.hi = min (max r.highCut e) 1 := by simp [P, effective]
  have hlo : P.lo = min (max r.lowCut 0) (P.hi - e) := by simp [P, effective]
  have hsteep : P.steep = max r.steepness e := by simp [P, effective]
  have hsens : P.sens = max r.motionSens e := by simp [P, effective]
  refine ⟨⟨rfl, hfmax, hfmin, hhi, hlo, hsteep, hsens, rfl, rfl, rfl, rfl, rfl, rfl, rfl, rfl, rfl, rfl, rfl⟩, ?_⟩
  clear_value P
  have hfmax_ge : 2 * e ≤ P.fmax := hfmax ▸ le_min (le_max_right _ _) (by linarith)
  have hhi_ge : e ≤ P.hi := hhi ▸ le_min (le_max_right _ _) (by linarith)
  have hfmin_le : P.fmin ≤ P.fmax - e := hfmin ▸ min_le_right _ _
  have hlo_le : P.lo ≤ P.hi - e := hlo ▸ min_le_right _ _
  refine ⟨hlevels.1, hlevels.2, ?_, by linarith, hfmax ▸ min_le_right _ _, ?_, by linarith, hhi ▸ min_le_right _ _, ?_, ?_⟩
  · exact hfmin ▸ lt_min (lt_max_of_lt_right hpos) (by linarith)
  · exact hlo ▸ le_min (le_max_right _ _) (by linarith)
  · exact hsteep ▸ lt_max_of_lt_right hpos
  · exact hsens ▸ lt_max_of_lt_right hpos

/-! ## Acceptance (R33, R250) and reset (R41, R310) -/

theorem regNum_of_dec {α ω : Type} {M : NumSystem α ω} {x : ω} {v : α} (h : M.dec x = some v) : regNum M x = v := by
  rw [regNum, h]; rfl

@[simp] theorem binary32_cfgEps : binary32.cfgEps = cfgEps := rfl

/-- Settles O6: acceptance samples the registers through `effective`; a busy block logs the overrun. -/
theorem cmdWriteAcceptsOrOverruns : Obligations.CmdWriteAcceptsOrOverruns := by
  intro s w
  have hwrite : s.hostAccess binary32 (.write 0x00 w) = s.writeReg binary32 .cmd w :=
    State.hostAccess_write (by decide) (by decide) rfl w
  refine ⟨fun hidle => ⟨s.accept binary32 w, ?_, ?_⟩, fun hbusy => ⟨s.logError overrunCode, ?_, ?_, rfl⟩, rfl⟩
  · rw [hwrite, State.writeReg, hidle]; rfl
  · have hnum (x : Word) (v : Number) (h : Number.dec? x = some v) : regNum binary32 x = v := regNum_of_dec h
    refine ⟨rfl, rfl, rfl, rfl, rfl, rfl, rfl, rfl, ?_, ?_, ?_, ?_, ?_, ?_, hnum _, hnum _, hnum _, hnum _,
      rfl, rfl, rfl, rfl, rfl, rfl⟩ <;>
    · intro v hv
      simp only [State.accept_snap, State.effectiveNow, effective, Regs.raw, hnum _ v hv, binary32_ops, binary32_cfgEps,
        Numerics.half]
  · rw [hwrite, State.writeReg, hbusy]; rfl
  · exact fun k hk => State.getLsbD_logError s overrunCode k hk

/-- Settles O11: whatever the state was, the reset event leaves the reset state's fields. -/
theorem resetEventRestoresResetValues : Obligations.ResetEventRestoresResetValues := by
  intro s rest hreset
  refine ⟨State.resetEvent binary32 { s with agenda := rest }, ?_, ?_⟩
  · rw [step_eq_stepOver, stepOver, hreset]; rfl
  · exact ⟨rfl, rfl, rfl, rfl, rfl, rfl, rfl, rfl, rfl, rfl, rfl, rfl, rfl, rfl, rfl, rfl, rfl, rfl, rfl, rfl, rfl, rfl,
      rfl, rfl, rfl, rfl⟩

end Sys2Proof.Machine
end

section
/-! Every step keeps the canonical form of the memories (O43). -/
namespace Sys2Proof.Machine

variable {α ω : Type} {M : NumSystem α ω} {s t : State α ω}

/-! ## Dispatches and macros -/

theorem CanonicalMemories.withParity (h : CanonicalMemories s) (b : Bool) : CanonicalMemories { s with pp := b } := h

theorem CanonicalMemories.axisPasses (h : CanonicalMemories s) (ax : Axis) (j : Nat) :
    CanonicalMemories (ax.passes M j s) := by
  have hpermute : CanonicalMemories (s.pingPong (ax.permute M)) := by
    cases ax <;> exact (canonicalMemories_dispatchS s _ _ h).withParity _
  have hpass (i : Nat) (u : State α ω) (hu : CanonicalMemories u) :
      CanonicalMemories (u.pingPong fun d a => ax.pass M d a (i + 1)) := by
    cases ax <;> exact (canonicalMemories_dispatchS u _ _ hu).withParity _
  exact State.passes_induction hpass j _ hpermute

theorem CanonicalMemories.rowsAndColumns (h : CanonicalMemories s) : CanonicalMemories (s.rowsAndColumns M) :=
  (h.axisPasses .row _).axisPasses .col _

theorem CanonicalMemories.fftForward (h : CanonicalMemories s) (d : Spectrum) (a : Plane) :
    CanonicalMemories (s.fftForward M d a) := by
  have hwiden : CanonicalMemories (s.widen M .w0 a) := canonicalMemories_dispatchS s _ _ h
  have hload : CanonicalMemories (s.loadCentred M a) := canonicalMemories_dispatchS _ _ _ hwiden
  exact canonicalMemories_dispatchS _ _ _ hload.rowsAndColumns

theorem CanonicalMemories.storeReal (h : CanonicalMemories s) (d : Plane) : CanonicalMemories (s.storeReal M d) := by
  have hconj : CanonicalMemories (s.conj M .w0 .w0) := canonicalMemories_dispatchS s _ _ h
  have hscale : CanonicalMemories ((s.conj M .w0 .w0).scale M .w0 .w0) := canonicalMemories_dispatchS _ _ _ hconj
  exact canonicalMemories_dispatchP _ _ _ (canonicalMemories_dispatchS _ _ _ hscale)

theorem CanonicalMemories.fftInverse (h : CanonicalMemories s) (d : Plane) (a : Spectrum) :
    CanonicalMemories (s.fftInverse M d a) := by
  have hload : CanonicalMemories (s.loadConj M a) := (canonicalMemories_dispatchS s _ _ h).withParity _
  rw [State.fftInverse_eq]
  exact hload.rowsAndColumns.storeReal d

theorem CanonicalMemories.genFilt (h : CanonicalMemories s) : CanonicalMemories (s.genFilt M) :=
  State.forLevels_induction (op := fun i u => u.genMask M (.mask (levelIndex i)) i)
    (fun _ _ => canonicalMemories_dispatchP _ _ _) s.snap.levels s h

theorem CanonicalMemories.decompose [DecidableEq α] (h : CanonicalMemories s) : CanonicalMemories (s.decompose M) := by
  have hbank : CanonicalMemories (s.refreshBank M) := by
    unfold State.refreshBank
    split
    · exact h
    · exact h.genFilt
  have hbands := State.forLevels_induction (P := CanonicalMemories)
    (op := fun i u => (u.mulM M (.bcur (levelIndex i)) .scur (.mask (levelIndex i))).mulM M
      (.bprv (levelIndex i)) .sprv (.mask (levelIndex i)))
    (fun _ _ hu => canonicalMemories_dispatchS _ _ _ (canonicalMemories_dispatchS _ _ _ hu)) s.snap.levels _ hbank
  have hamp := State.forLevels_induction (P := CanonicalMemories)
    (op := fun i u => u.amplify M (.bprc (levelIndex i)) (.bcur (levelIndex i)) (.bprv (levelIndex i)))
    (fun _ _ => canonicalMemories_dispatchS _ _ _) s.snap.levels _ hbands
  exact State.forLevels_induction (P := CanonicalMemories) (fun _ _ => canonicalMemories_dispatchS _ _ _) s.snap.levels _
    (canonicalMemories_dispatchS _ .smod _ hamp)

theorem CanonicalMemories.diagnose (h : CanonicalMemories s) : CanonicalMemories (s.diagnose M) := by
  unfold State.diagnose
  split
  · exact canonicalMemories_dispatchP _ _ _ h
  · split
    · exact canonicalMemories_dispatchP _ _ _ h
    · exact h

theorem CanonicalMemories.steadyFrame [DecidableEq α] (h : CanonicalMemories s) :
    CanonicalMemories (s.steadyFrame M) := by
  have hspec := (h.fftForward (M := M) .scur .lin).fftForward (M := M) .sprv .lprev
  have hmod : CanonicalMemories
      (if s.snap.pyr then ((s.fftForward M .scur .lin).fftForward M .sprv .lprev).decompose M
        else ((s.fftForward M .scur .lin).fftForward M .sprv .lprev).amplify M .smod .scur .sprv) := by
    split
    · exact hspec.decompose
    · exact canonicalMemories_dispatchS _ _ _ hspec
  exact canonicalMemories_dispatchP _ _ _ (hmod.fftInverse .lout .smod).diagnose

theorem CanonicalMemories.planeTouched (h : CanonicalMemories s) (d : Plane) : CanonicalMemories (s.planeTouched d) := by
  rw [State.planeTouched_eq]; exact h

theorem CanonicalMemories.fillTables (h : CanonicalMemories s) : CanonicalMemories (s.fillBrt.fillTwt M) :=
  canonicalMemories_dispatchTwt _ _ (canonicalMemories_dispatchBrt s _ h)

/-! ## Commands -/

/-- A command that checks its operands and then runs keeps the form when its run does. -/
theorem CanonicalMemories.of_finish {β : Type} {r : Except CmdError β} {f : β → Except CmdError (State α ω)}
    (hs : CanonicalMemories s) (h : s.finish (r >>= f) = .next t)
    (hf : ∀ x, ∃ u, f x = .ok u ∧ CanonicalMemories u) : CanonicalMemories t := by
  cases r with
  | error e => cases h; exact hs
  | ok x =>
    obtain ⟨u, hu, hcanon⟩ := hf x
    have hnext : s.finish (f x) = .next t := h
    rw [hu] at hnext
    cases hnext
    exact hcanon

/-- INIT forgets every memory, and fills the tables of a new session (R252 of 44). -/
theorem canonicalMemories_init (h : Meaning.init M s = .next t) : CanonicalMemories t := by
  unfold Meaning.init at h
  simp only at h
  split at h
  · cases h; exact canonicalMemories_forget s
  · split at h
    · cases h; exact canonicalMemories_forget s
    · cases h
      exact CanonicalMemories.fillTables (s := { s.forget with logn := _ }) (canonicalMemories_forget s)

theorem CanonicalMemories.frame [DecidableEq α] (hs : CanonicalMemories s) (h : Meaning.frame M s = .next t) :
    CanonicalMemories t := by
  unfold Meaning.frame at h
  cases hsession : s.session with
  | uninitialized => rw [hsession] at h; cases h; exact hs
  | ready =>
    rw [hsession] at h
    cases h
    exact canonicalMemories_dispatchP (s.copyP M .lprev .lin) _ _ (canonicalMemories_dispatchP s _ _ hs)
  | steadyState => rw [hsession] at h; cases h; exact hs.steadyFrame

theorem CanonicalMemories.execOver [DecidableEq α] {i : Instr} (hs : CanonicalMemories s)
    (h : execOver M i s = .next t) : CanonicalMemories t := by
  cases i with
  | nop => cases h; exact hs
  | init => exact canonicalMemories_init h
  | shutdown => cases h; exact canonicalMemories_forget s
  | frame => exact hs.frame h
  | tblBrev => exact hs.of_finish h fun _ => ⟨_, rfl, canonicalMemories_dispatchBrt s _ hs⟩
  | tblTwid => exact hs.of_finish h fun _ => ⟨_, rfl, canonicalMemories_dispatchTwt s _ hs⟩
  | widen | center | conj | scale | copyS | zero | add | mulM | brevRow | brevCol | bflyRow | bflyCol | pamp =>
    exact hs.of_finish h fun _ => ⟨_, rfl, canonicalMemories_dispatchS s _ _ hs⟩
  | toMag | toPhase | toReal | copyP | genMask =>
    exact hs.of_finish h fun _ => ⟨_, rfl, (canonicalMemories_dispatchP s _ _ hs).planeTouched _⟩
  | fftFwd => exact hs.of_finish h fun _ => ⟨_, rfl, hs.fftForward _ _⟩
  | fftInv => exact hs.of_finish h fun _ => ⟨_, rfl, (hs.fftInverse _ _).planeTouched _⟩
  | genFilt => exact hs.of_finish h fun _ => ⟨_, rfl, hs.genFilt⟩

theorem CanonicalMemories.runCurrent [DecidableEq α] (hs : CanonicalMemories s) (h : s.runCurrent M = .next t) :
    CanonicalMemories t := by
  rcases State.runCurrent_cases M s with ⟨i, -, hrun⟩ | ⟨-, hrun⟩ <;> rw [hrun] at h
  · exact hs.execOver h
  · cases h; exact hs

/-! ## Host accesses and steps -/

theorem OnlyRegisters.canonicalMemories (h : OnlyRegisters s t) (hs : CanonicalMemories s) : CanonicalMemories t := by
  rw [← h.rest] at hs; exact hs

theorem CanonicalMemories.hostAccess [DecidableEq α] {x : HostAccess ω} (hs : CanonicalMemories s)
    (h : s.hostAccess M x = .next t) : CanonicalMemories t := by
  rcases State.hostAccess_cases M h with hreg | ⟨-, w, rfl⟩ | ⟨p, -, rfl⟩ | ⟨p, v, -, rfl⟩ | ⟨q, z, -, rfl⟩
  · exact hreg.canonicalMemories hs
  · exact hs
  · exact hs.planeTouched p
  · exact (canonicalMemories_writePlane s p _ v hs).planeTouched p
  · exact canonicalMemories_writeSpec s q _ z hs

theorem CanonicalMemories.stepOver [DecidableEq α] (hs : CanonicalMemories s) (h : stepOver M s = .next t) :
    CanonicalMemories t := by
  have htail : CanonicalMemories { s with agenda := s.agenda.tail } := hs
  rcases stepOver_cases M h with ⟨-, rfl, -⟩ | ⟨-, hrun, -⟩ | ⟨x, -, hx⟩ | ⟨-, rfl⟩ | ⟨ok, -, rfl⟩
  · exact hs
  · exact htail.runCurrent hrun
  · exact htail.hostAccess hx
  · exact canonicalMemories_forget s
  · exact hs

/-- Settles O43: whatever turn a step takes, it stores by `Memory.set` and `Memory.fill` only, or forgets everything. -/
theorem stepKeepsMemoriesCanonical : Obligations.StepKeepsMemoriesCanonical :=
  fun _ _ hs h => hs.stepOver h

end Sys2Proof.Machine
end

section
/-! The window (R76 to R78 of 20; O17, O18, O19), what the host can do while a command runs (O8), and the accesses the model
refuses (O14). -/

namespace Sys2Proof.Machine

section
variable {α ω : Type} {M : NumSystem α ω} {s : State α ω}

/-! ## What the selection names (R28 of 10, R107 of 30) -/

theorem State.windowNamed_eq (s : State α ω) :
    s.windowNamed = ((planeOf (selectedId s)).map .plane).or
      (((spectrumOf (selectedId s)).map .spectrum).or ((tableOf (selectedId s)).map .table)) := rfl

/-- The identifiers of the tables. -/
theorem tableOf_eq_some {b : Byte} {k : Table} (h : tableOf b = some k) : b = 0xF0 ∧ k = .brt ∨ b = 0xF1 ∧ k = .twt := by
  unfold tableOf at h
  split at h
  · cases h; exact .inl ⟨BitVec.eq_of_toNat_eq ‹_›, rfl⟩
  · cases h; exact .inr ⟨BitVec.eq_of_toNat_eq ‹_›, rfl⟩
  · cases h

theorem State.windowNamed_table {k : Table} (h : tableOf (selectedId s) = some k) : s.windowNamed = some (.table k) := by
  have hcode : 0xC0 ≤ (selectedId s).toNat := by
    obtain ⟨hid, -⟩ | ⟨hid, -⟩ := tableOf_eq_some h <;> rw [hid] <;> decide
  have hplane : planeOf (selectedId s) = none := Option.eq_none_iff_forall_ne_some.mpr fun p hp => by
    have := planeOf_code hp; have := p.code_lt; omega
  have hspectrum : spectrumOf (selectedId s) = none := Option.eq_none_iff_forall_ne_some.mpr fun q hq => by
    have := spectrumOf_code hq; have := q.code_lt; omega
  rw [State.windowNamed_eq, hplane, hspectrum, h]; rfl

/-- Everything the selection can name. -/
theorem State.windowNamed_cases {k : WindowTarget} (h : s.windowNamed = some k) :
    (∃ p, planeOf (selectedId s) = some p ∧ k = .plane p) ∨ (∃ q, spectrumOf (selectedId s) = some q ∧ k = .spectrum q)
      ∨ (selectedId s = 0xF0 ∧ k = .table .brt) ∨ (selectedId s = 0xF1 ∧ k = .table .twt) := by
  simp only [State.windowNamed_eq, Option.or_eq_some_iff, Option.map_eq_some_iff] at h
  obtain ⟨p, hp, rfl⟩ | ⟨-, ⟨q, hq, rfl⟩ | ⟨-, b, hb, rfl⟩⟩ := h
  · exact .inl ⟨p, hp, rfl⟩
  · exact .inr (.inl ⟨q, hq, rfl⟩)
  · obtain ⟨hid, rfl⟩ | ⟨hid, rfl⟩ := tableOf_eq_some hb
    · exact .inr (.inr (.inl ⟨hid, rfl⟩))
    · exact .inr (.inr (.inr ⟨hid, rfl⟩))

/-! ## What an access acts on (R76) -/

theorem State.windowTarget_plane {p : Plane} (hp : planeOf (selectedId s) = some p) (h : Admits s (s.n * s.n)) :
    s.windowTarget = some (.plane p) := State.windowTarget_eq_some.mpr ⟨State.windowNamed_plane hp, h⟩

theorem State.windowTarget_spectrum {q : Spectrum} (hq : spectrumOf (selectedId s) = some q) (h : Admits s (s.n * s.n)) :
    s.windowTarget = some (.spectrum q) := State.windowTarget_eq_some.mpr ⟨State.windowNamed_spectrum hq, h⟩

theorem State.windowTarget_brt (hid : selectedId s = 0xF0) (h : Admits s s.n) : s.windowTarget = some (.table .brt) :=
  State.windowTarget_eq_some.mpr ⟨State.windowNamed_table (by rw [hid]; rfl), h⟩

theorem State.windowTarget_twt (hid : selectedId s = 0xF1) (h : Admits s (s.n / 2)) : s.windowTarget = some (.table .twt) :=
  State.windowTarget_eq_some.mpr ⟨State.windowNamed_table (by rw [hid]; rfl), h⟩

theorem State.windowTarget_ne_some_of_busy (h : s.busy = true) (k : WindowTarget) : s.windowTarget ≠ some k := fun hk => by
  obtain ⟨-, hidle, -⟩ := State.windowTarget_eq_some.mp hk
  exact Bool.noConfusion (h.symm.trans hidle)

/-- With no admitted element of a plane or a spectrum, an access acts on nothing or on a table. -/
theorem State.windowTarget_cases_of_not_admits (hp : ∀ p, planeOf (selectedId s) = some p → ¬ Admits s (s.n * s.n))
    (hq : ∀ q, spectrumOf (selectedId s) = some q → ¬ Admits s (s.n * s.n)) :
    s.windowTarget = none ∨ (selectedId s = 0xF0 ∧ Admits s s.n ∧ s.windowTarget = some (.table .brt))
      ∨ (selectedId s = 0xF1 ∧ Admits s (s.n / 2) ∧ s.windowTarget = some (.table .twt)) := by
  cases htarget : s.windowTarget with
  | none => exact .inl rfl
  | some k =>
    obtain ⟨hnamed, hadmits⟩ := State.windowTarget_eq_some.mp htarget
    obtain ⟨p, hid, rfl⟩ | ⟨q, hid, rfl⟩ | ⟨hid, rfl⟩ | ⟨hid, rfl⟩ := State.windowNamed_cases hnamed
    · exact absurd hadmits (hp p hid)
    · exact absurd hadmits (hq q hid)
    · exact .inr (.inl ⟨hid, hadmits, rfl⟩)
    · exact .inr (.inr ⟨hid, hadmits, rfl⟩)

/-! ## Window accesses by what they act on -/

variable {im : Bool} {x : ω}

theorem State.windowWrite_refused (h : s.windowTarget = none ∨ ∃ k, s.windowTarget = some (.table k)) :
    s.windowWrite M im x = .next (s.logError hostAccCode) := by
  obtain h | ⟨k, h⟩ := h <;> simp only [State.windowWrite, h]

theorem State.windowWrite_plane_re {p : Plane} {v : α} (h : s.windowTarget = some (.plane p)) (hv : M.dec x = some v) :
    s.windowWrite M false x = .next ((s.writePlane p s.regs.hbIdx.toNat v).planeTouched p) := by
  simp only [State.windowWrite, h, hv]

theorem State.windowWrite_plane_im {p : Plane} (h : s.windowTarget = some (.plane p)) :
    s.windowWrite M true x = .next (s.planeTouched p) := by
  simp only [State.windowWrite, h]

theorem State.windowWrite_spectrum {q : Spectrum} {v : α} (h : s.windowTarget = some (.spectrum q))
    (hv : M.dec x = some v) :
    s.windowWrite M im x = .next (s.writeSpec q s.regs.hbIdx.toNat
      (if im then { s.specElem M q s.regs.hbIdx.toNat with im := v }
        else { s.specElem M q s.regs.hbIdx.toNat with re := v })) := by
  simp only [State.windowWrite, h, hv]

theorem State.windowWrite_plane_notFinite {p : Plane} (h : s.windowTarget = some (.plane p)) (hx : M.dec x = none) :
    s.windowWrite M false x = .refused .notFinite := by
  simp only [State.windowWrite, h, hx]

theorem State.windowWrite_spectrum_notFinite {q : Spectrum} (h : s.windowTarget = some (.spectrum q))
    (hx : M.dec x = none) : s.windowWrite M im x = .refused .notFinite := by
  simp only [State.windowWrite, h, hx]

/-! ## A numeric register (U7 of 93) -/

/-- The register of a numeric offset refuses what is no number (U7 of 93). -/
theorem State.writeReg_notFinite {r : RegName} {x : ω} (hr : r.rw = some true) (hx : M.dec x = none) :
    s.writeReg M r x = .refused .notFinite := by
  cases r with
  | minFreq | maxFreq | phaseScale | magThresh | magScale | lowCut | highCut | steepness | motionSens | edgeEnh =>
    simp only [State.writeReg, State.writeNum, hx]; rfl
  | _ => cases hr

end

/-! ## Accesses at the offsets of the window -/

/-- The offset of `HB_RE`, or of `HB_IM` (R32 of 10). -/
def windowOffset (im : Bool) : Nat := if im then 0x6C else 0x68

section
variable {α ω : Type} [DecidableEq α] {M : NumSystem α ω} {s t : State α ω}

theorem State.hostAccess_windowRead (im : Bool) :
    s.hostAccess M (.read (windowOffset im)) = .next (s.windowRead M im) := by
  cases im <;> rfl

theorem State.hostAccess_windowWrite (im : Bool) (x : ω) :
    s.hostAccess M (.write (windowOffset im) x) = s.windowWrite M im x := by
  cases im <;> rfl

/-- What an admitted read returns. -/
theorem readsAs_window {k : WindowTarget} {x : ω} (h : s.windowTarget = some k) (im : Bool) (hx : s.windowWord M im k = x) :
    ReadsAs M s (windowOffset im) x := by
  simp only [ReadsAs, State.hostAccess_windowRead, State.windowRead, h, hx]

/-- What an admitted write of `HB_RE` does to a plane (R77, R231). -/
theorem exists_write_plane_re {p : Plane} {x : ω} {v : α} (h : s.windowTarget = some (.plane p)) (hv : M.dec x = some v) :
    ∃ t, s.hostAccess M (.write 0x68 x) = .next t ∧ t.planeElem M p s.regs.hbIdx.toNat = v
      ∧ (∀ p' idx, validIndex idx → ¬ (p' = p ∧ idx = s.regs.hbIdx.toNat) → t.planeElem M p' idx = s.planeElem M p' idx)
      ∧ ((∃ i, p = .mask i) → t.fbValid = false) ∧ ((∀ i, p ≠ .mask i) → t.fbValid = s.fbValid)
      ∧ { t with planes := s.planes, fbValid := s.fbValid } = s := by
  have hread (p' : Plane) (idx : Nat) (hidx : validIndex idx) :
      ((s.writePlane p s.regs.hbIdx.toNat v).planeTouched p).planeElem M p' idx
        = if p' = p ∧ idx = s.regs.hbIdx.toNat then v else s.planeElem M p' idx :=
    (State.planeElem_congr M (State.planeTouched_planes _ p) (State.planeTouched_epoch _ p) p' idx).trans
      (State.planeElem_writePlane M s p _ v p' idx s.regs.hbIdx.isLt hidx)
  refine ⟨_, (State.hostAccess_windowWrite false x).trans (State.windowWrite_plane_re h hv), ?_, fun p' idx hidx hne => ?_,
    ?_, State.planeTouched_fbValid _ p, ?_⟩
  · rw [hread p _ s.regs.hbIdx.isLt, if_pos ⟨rfl, rfl⟩]
  · rw [hread p' idx hidx, if_neg hne]
  · rintro ⟨i, rfl⟩; rfl
  · rw [State.planeTouched_eq]; rfl

/-- What a write of `HB_IM` does to an admitted element of a plane (R77, R231). -/
theorem exists_write_plane_im {p : Plane} (h : s.windowTarget = some (.plane p)) (x : ω) :
    ∃ t, s.hostAccess M (.write 0x6C x) = .next t
      ∧ ((∃ i, p = .mask i) → t.fbValid = false) ∧ ((∀ i, p ≠ .mask i) → t.fbValid = s.fbValid)
      ∧ { t with fbValid := s.fbValid } = s := by
  refine ⟨_, (State.hostAccess_windowWrite true x).trans (State.windowWrite_plane_im h), ?_, State.planeTouched_fbValid s p,
    ?_⟩
  · rintro ⟨i, rfl⟩; rfl
  · rw [State.planeTouched_eq]

/-- What an admitted write of either part does to a spectrum (R77). -/
theorem exists_write_spectrum {q : Spectrum} {x : ω} {v : α} (h : s.windowTarget = some (.spectrum q))
    (hv : M.dec x = some v) (im : Bool) :
    ∃ t, s.hostAccess M (.write (windowOffset im) x) = .next t
      ∧ t.specElem M q s.regs.hbIdx.toNat
        = (if im then { s.specElem M q s.regs.hbIdx.toNat with im := v }
            else { s.specElem M q s.regs.hbIdx.toNat with re := v })
      ∧ (∀ q' idx, validIndex idx → ¬ (q' = q ∧ idx = s.regs.hbIdx.toNat) → t.specElem M q' idx = s.specElem M q' idx)
      ∧ { t with spectra := s.spectra } = s := by
  refine ⟨_, (State.hostAccess_windowWrite im x).trans (State.windowWrite_spectrum h hv), ?_, fun q' idx hidx hne => ?_, rfl⟩
  · rw [State.specElem_writeSpec M s q _ _ q _ s.regs.hbIdx.isLt s.regs.hbIdx.isLt, if_pos ⟨rfl, rfl⟩]
  · rw [State.specElem_writeSpec M s q _ _ q' idx s.regs.hbIdx.isLt hidx, if_neg hne]

/-- While a command runs an access changes registers and `ERRLOG` only: no word is accepted, and the window admits nothing. -/
theorem onlyRegisters_hostAccess_of_busy {x : HostAccess ω} (hbusy : s.busy = true) (h : s.hostAccess M x = .next t) :
    OnlyRegisters s t := by
  have hnone := State.windowTarget_ne_some_of_busy hbusy
  rcases State.hostAccess_cases M h with hreg | ⟨hidle, -⟩ | ⟨p, hp, -⟩ | ⟨p, v, hp, -⟩ | ⟨q, z, hq, -⟩
  · exact hreg
  · exact Bool.noConfusion (hbusy.symm.trans hidle)
  · exact absurd hp (hnone _)
  · exact absurd hp (hnone _)
  · exact absurd hq (hnone _)

end

section
variable {α ω : Type} {off : Nat}

theorem atOffset_misaligned (act : Option RegName → Host.Outcome (State α ω) Fault Refusal) (hlt : off < 256)
    (hmod : off % 4 ≠ 0) : atOffset off act = .refused .misalignedAccess := by
  rw [atOffset, if_neg (by omega), if_pos hmod]

theorem atOffset_noSuchOffset (act : Option RegName → Host.Outcome (State α ω) Fault Refusal) (h : 256 ≤ off) :
    atOffset off act = .fault .noSuchOffset := if_pos h

theorem Number.dec?_eq_none {w : Word} (h : isFinitePattern w = false) : Number.dec? w = none := by
  rw [← Option.isNone_iff_eq_none, ← Option.not_isSome, Number.dec?_isSome, h]; rfl

end

theorem IsReference.ofWord_zero {M : NumSystem ℝ ℝ} (hM : IsReference M) : M.ofWord 0 = 0 :=
  (hM.ofWord 0).trans Nat.cast_zero

/-! ## The obligations -/

/-- Settles O8: a busy block takes no command word and admits no window access. -/
theorem hostCannotDisturbRunningCommand : Obligations.HostCannotDisturbRunningCommand :=
  fun _ _ _ hbusy h => (onlyRegisters_hostAccess_of_busy hbusy h).rest

/-- Settles O17: the word of R76's table for each kind of target, and its value over the reals. -/
theorem windowReadReturnsElement : Obligations.WindowReadReturnsElement := by
  refine ⟨fun s => ⟨fun p hp h => ?_, fun q hq h => ?_, fun hid h => ?_, fun hid h => ?_⟩,
    fun M s hM => ⟨fun p hp h => ?_, fun q hq h => ?_, fun hid h hlt => ?_, fun hid h => ?_⟩⟩
  · have ht := State.windowTarget_plane hp h
    exact ⟨readsAs_window ht false rfl, readsAs_window ht true rfl⟩
  · have ht := State.windowTarget_spectrum hq h
    exact ⟨readsAs_window ht false rfl, readsAs_window ht true rfl⟩
  · have ht := State.windowTarget_brt hid h
    exact ⟨readsAs_window ht false rfl, readsAs_window ht true rfl⟩
  · have ht := State.windowTarget_twt hid h
    exact ⟨readsAs_window ht false rfl, readsAs_window ht true rfl⟩
  · have ht := State.windowTarget_plane hp h
    exact ⟨readsAs_window ht false (hM.enc _), readsAs_window ht true hM.ofWord_zero⟩
  · have ht := State.windowTarget_spectrum hq h
    exact ⟨readsAs_window ht false (hM.enc _), readsAs_window ht true (hM.enc _)⟩
  · have ht := State.windowTarget_brt hid h
    refine ⟨readsAs_window ht false ?_, readsAs_window ht true hM.ofWord_zero⟩
    show M.ofWord (BitVec.ofNat 32 (s.brtEntry s.regs.hbIdx.toNat)) = _
    rw [hM.ofWord, BitVec.toNat_ofNat, Nat.mod_eq_of_lt hlt]
  · have ht := State.windowTarget_twt hid h
    exact ⟨readsAs_window ht false (hM.enc _), readsAs_window ht true (hM.enc _)⟩

/-- Settles O18: what an admitted write does, over any number system in which the word is a number. -/
theorem windowWriteReplacesOnePart : Obligations.WindowWriteReplacesOnePart := by
  refine ⟨fun s w h => ⟨fun p hp => ?_, fun q v hq hv => ?_⟩, fun M s v hM h => ⟨fun p hp => ?_, fun q hq => ?_⟩⟩
  · have ht := State.windowTarget_plane hp h
    exact ⟨fun v hv => exists_write_plane_re ht hv, exists_write_plane_im ht w⟩
  · have ht := State.windowTarget_spectrum hq h
    exact ⟨exists_write_spectrum ht hv false, exists_write_spectrum ht hv true⟩
  · have ht := State.windowTarget_plane hp h
    exact ⟨exists_write_plane_re ht (hM.dec v), exists_write_plane_im ht v⟩
  · have ht := State.windowTarget_spectrum hq h
    exact ⟨exists_write_spectrum ht (hM.dec v) false, exists_write_spectrum ht (hM.dec v) true⟩

/-- Settles O19: with no admitted element of a buffer a write is logged and dropped, also on a table; with no admitted element
at all so is a read. -/
theorem refusedWindowAccessIsLogged : Obligations.RefusedWindowAccessIsLogged := by
  intro s w off hoff hplane hspectrum
  obtain ⟨im, rfl⟩ : ∃ im, off = windowOffset im := hoff.elim (⟨false, ·⟩) (⟨true, ·⟩)
  have hcases := State.windowTarget_cases_of_not_admits hplane hspectrum
  refine ⟨⟨s.logError hostAccCode, ?_, State.getLsbD_logError s hostAccCode, rfl⟩, fun hbrt htwt => ?_⟩
  · rw [State.hostAccess_windowWrite]
    refine State.windowWrite_refused (hcases.imp_right fun htable => ?_)
    exact htable.elim (fun ⟨_, _, h⟩ => ⟨_, h⟩) (fun ⟨_, _, h⟩ => ⟨_, h⟩)
  · have hnone : s.windowTarget = none := by
      obtain h | ⟨hid, hadmits, -⟩ | ⟨hid, hadmits, -⟩ := hcases
      · exact h
      · exact absurd hadmits (hbrt hid)
      · exact absurd hadmits (htwt hid)
    refine ⟨_, State.hostAccess_windowRead im, ?_⟩
    rw [State.windowRead, hnone]
    exact ⟨State.getLsbD_logError s hostAccCode, rfl⟩

/-- Settles O14: the offset is looked at first, then the width, then the number. -/
theorem oddAccessesAreRefused : Obligations.OddAccessesAreRefused := by
  intro s off bits w
  refine ⟨fun hlt hmod => ?_, fun hlt hmod => ?_, fun h => ?_, fun hw => ?_⟩
  · simp only [State.hostAccess, atOffset_misaligned _ hlt hmod, and_self]
  · simp only [State.hostAccess, atOffset_ok hlt hmod]
  · simp only [State.hostAccess, atOffset_noSuchOffset _ h, and_self]
  have hdec : binary32.dec w = none := Number.dec?_eq_none hw
  refine ⟨fun o hmem => ?_, fun p hp h => ?_, fun q hq h => ⟨?_, ?_⟩⟩
  · obtain ⟨hlt, hmod, r, hr, hrw⟩ := regAt_of_mem hmem
    exact (State.hostAccess_write hlt hmod hr w).trans (State.writeReg_notFinite hrw hdec)
  · exact (State.hostAccess_windowWrite false w).trans
      (State.windowWrite_plane_notFinite (State.windowTarget_plane hp h) hdec)
  · exact (State.hostAccess_windowWrite false w).trans
      (State.windowWrite_spectrum_notFinite (State.windowTarget_spectrum hq h) hdec)
  · exact (State.hostAccess_windowWrite true w).trans
      (State.windowWrite_spectrum_notFinite (State.windowTarget_spectrum hq h) hdec)

end Sys2Proof.Machine
end

section
/-! `STATUS` while a command runs (O16): every field stays within the bounds of U13. -/

namespace Sys2Proof.Machine

/-! ## Drawn values (U13; log 11) -/

theorem drawBetween_bounds (a b r : Nat) : min a b ≤ drawBetween a b r ∧ drawBetween a b r ≤ max a b := by
  have hmod := Nat.mod_lt r (show 0 < max a b - min a b + 1 from Nat.succ_pos _)
  unfold drawBetween
  omega

theorem drawBetween_self (a r : Nat) : drawBetween a a r = a := by
  obtain ⟨hlo, hhi⟩ := drawBetween_bounds a a r
  omega

/-- A flag that does not change is drawn as it is. -/
theorem decide_drawBetween_toNat (b : Bool) (r : Nat) : decide (drawBetween b.toNat b.toNat r = 1) = b := by
  rw [drawBetween_self]; cases b <;> rfl

theorem Session.code_le (c : Session) : c.code ≤ 2 := by cases c <;> decide

/-! ## The running command -/

section
variable {α ω : Type} (M : NumSystem α ω) (s : State α ω)

/-- A command ends in a next state, completed or abandoned (R250 of 44). -/
theorem State.exists_finish (r : Except CmdError (State α ω)) : ∃ t, s.finish r = .next t := by
  obtain ⟨t, -, h⟩ | ⟨e, -, h⟩ := s.finish_cases r
  · exact ⟨_, h⟩
  · exact ⟨_, h⟩

theorem exists_init : ∃ t, Meaning.init M s = .next t := by
  unfold Meaning.init
  simp only
  split
  · exact ⟨_, rfl⟩
  · split
    · exact ⟨_, rfl⟩
    · exact ⟨_, rfl⟩

theorem exists_execOver [DecidableEq α] (i : Instr) : ∃ t, execOver M i s = .next t := by
  cases i with
  | nop | shutdown => exact ⟨_, rfl⟩
  | init => exact exists_init M s
  | _ => exact s.exists_finish _

theorem State.exists_runCurrent [DecidableEq α] : ∃ t, s.runCurrent M = .next t := by
  obtain ⟨i, -, h⟩ | ⟨-, h⟩ := State.runCurrent_cases M s <;> rw [h]
  · exact exists_execOver M s i
  · exact ⟨_, rfl⟩

end

section
variable {α ω : Type} {M : NumSystem α ω} {s t : State α ω}

theorem State.afterCommand_eq [DecidableEq α] (h : s.runCurrent M = .next t) : s.afterCommand M = t := by
  rw [State.afterCommand, h]

/-- Operands that pass the checks are of the right kinds, in a session (R108 of 30). -/
theorem kinds_and_session_of_isOk {β : Type} {r : Except CmdError β} {kinds : Bool}
    (hillcmd : kinds = false → r = .error .illcmd)
    (hstate : kinds = true → s.session = .uninitialized → r = .error .state) (h : r.isOk = true) :
    kinds = true ∧ s.session ≠ .uninitialized := by
  have hkinds : kinds = true := by
    by_contra hbad
    rw [hillcmd (Bool.eq_false_iff.mpr hbad)] at h
    cases h
  refine ⟨hkinds, fun hclosed => ?_⟩
  rw [hstate hkinds hclosed] at h
  cases h

/-- The commands that change `PP` while they run: with good operands and in a session, a transform macro, or FRAME in
`SteadyState` (R84, R169). -/
theorem flipsParity_cases (h : s.flipsParity = true) :
    ∃ i, decode s.cur = .ok i ∧ i.kindsOk = true ∧ s.session ≠ .uninitialized
      ∧ ((∃ d a, i = .fftFwd d a) ∨ (∃ d a, i = .fftInv d a) ∨ (i = .frame ∧ s.session = .steadyState)) := by
  cases hdecode : decode s.cur with
  | error e => simp only [State.flipsParity, hdecode, Bool.false_eq_true] at h
  | ok i =>
    cases i with
    | fftFwd d a =>
      simp only [State.flipsParity, hdecode] at h
      obtain ⟨hkinds, hopen⟩ := kinds_and_session_of_isOk operandsSP_illcmd operandsSP_state h
      exact ⟨_, rfl, hkinds, hopen, .inl ⟨d, a, rfl⟩⟩
    | fftInv d a =>
      simp only [State.flipsParity, hdecode] at h
      obtain ⟨hkinds, hopen⟩ := kinds_and_session_of_isOk operandsPS_illcmd operandsPS_state h
      exact ⟨_, rfl, hkinds, hopen, .inr (.inl ⟨d, a, rfl⟩)⟩
    | frame =>
      simp only [State.flipsParity, hdecode, beq_iff_eq] at h
      exact ⟨_, rfl, rfl, by rw [h]; decide, .inr (.inr ⟨rfl, h⟩)⟩
    | _ => simp only [State.flipsParity, hdecode, Bool.false_eq_true] at h

/-- What `STATUS` shows, by the state `t` that the command leaves (U13). -/
theorem State.busyStatus_eq [DecidableEq α] (h : s.runCurrent M = .next t) :
    s.busyStatus M = statusLayout true (drawBetween s.session.code t.session.code (Config.transit s.draws 0))
      (if s.flipsParity then decide (Config.transit s.draws 1 % 2 = 1)
        else decide (drawBetween s.pp.toNat t.pp.toNat (Config.transit s.draws 1) = 1))
      (decide (drawBetween s.fbValid.toNat t.fbValid.toNat (Config.transit s.draws 2) = 1)) 0
      (drawBetween s.lognField t.lognField (Config.transit s.draws 3)) := by
  rw [State.busyStatus, State.afterCommand_eq h]

end

/-! ## The obligation -/

/-- Settles O16: each field of the word is drawn between its values before and after the command. -/
theorem statusWhileBusy : Obligations.StatusWhileBusy := by
  intro s hbusy
  obtain ⟨u, hrun⟩ := s.exists_runCurrent binary32
  have hread : s.hostAccess binary32 (.read 0x04)
      = .next { s with rdata := s.busyStatus binary32, draws := s.draws + 1 } := by
    rw [State.hostAccess_read (r := .status) (by decide) (by decide) rfl, State.readReg, hbusy]; rfl
  have hseq : s.sequence binary32 = .next u := by rw [State.sequence, hbusy]; exact hrun
  refine ⟨_, u, hread, hseq, ?_⟩
  obtain ⟨hstate_ge, hstate_le⟩ := drawBetween_bounds s.session.code u.session.code (Config.transit s.draws 0)
  obtain ⟨hlogn_ge, hlogn_le⟩ := drawBetween_bounds s.lognField u.lognField (Config.transit s.draws 3)
  have hstate := hstate_le.trans (max_le s.session.code_le u.session.code_le)
  have hlogn := hlogn_le.trans_lt (max_lt s.lognField_lt u.lognField_lt)
  obtain ⟨hbit, hcode, hpp, hfb, hlow, herr, hmid, hn, hhigh⟩ := statusNat_fields (hstate.trans_lt (by decide)) hlogn
    ((congrArg BitVec.toNat (State.busyStatus_eq hrun)).trans (toNat_statusLayout (hstate.trans_lt (by decide)) hlogn))
  refine ⟨hbit, ?_, herr, hlow, hmid, hhigh, hcode ▸ hstate_ge, hcode ▸ hstate_le, fun hkeeps => ?_, hn ▸ hlogn_ge,
    hn ▸ hlogn_le, fun hcommand hkeeps => ?_, rfl⟩
  · exact hcode ▸ (hstate.trans_lt (by decide)).ne
  · exact hfb.trans (by rw [← hkeeps, decide_drawBetween_toNat])
  · have hsteady : s.flipsParity = false := Bool.eq_false_iff.mpr fun hflips => by
      obtain ⟨i, hdecode, hkinds, hopen, hi⟩ := flipsParity_cases hflips
      obtain ⟨hfwd, hinv, hframe⟩ := hcommand i hdecode hkinds hopen
      obtain ⟨d, a, rfl⟩ | ⟨d, a, rfl⟩ | ⟨rfl, hsession⟩ := hi
      · exact hfwd d a rfl
      · exact hinv d a rfl
      · exact hframe rfl hsession
    exact hpp.trans (by rw [hsteady, ← hkeeps]; exact decide_drawBetween_toNat _ _)

end Sys2Proof.Machine
end

section
/-! `enc` and `dec` of `binary32` (O49): a pattern is its sign, exponent and fraction, and every stored number is the value of
exactly one finite pattern that is no negative zero (R75 of 20; log 1). -/

namespace Sys2Proof

/-! ## Magnitudes -/

/-- The magnitude, in units of `2^-149`, that an exponent field and a fraction field stand for. -/
def fieldUnits (e f : Nat) : Nat := if e = 0 then f else (2 ^ 23 + f) * 2 ^ (e - 1)

/-- The exponent and fraction fields that `enc` gives a magnitude, as one number. -/
def unitsPattern (k : Nat) : Nat := (Nat.log2 k - 23) * 2 ^ 23 + k / 2 ^ (Nat.log2 k - 23)

theorem patternUnits_eq (w : Word) : patternUnits w = fieldUnits (w.extractLsb' 23 8).toNat (w.extractLsb' 0 23).toNat := rfl

theorem Number.enc_eq (v : Number) :
    v.enc = BitVec.ofNat 32 ((if v.val < 0 then 2 ^ 31 else 0) + unitsPattern (binary32Units v.val)) := by
  rw [unitsPattern, ← Nat.add_assoc]; rfl

/-- The fields come back from the magnitude they stand for. -/
theorem unitsPattern_fieldUnits {e f : Nat} (hf : f < 2 ^ 23) : unitsPattern (fieldUnits e f) = e * 2 ^ 23 + f := by
  unfold unitsPattern fieldUnits
  by_cases he : e = 0
  · have hlog : Nat.log2 f - 23 = 0 := by
      rcases Nat.eq_zero_or_pos f with rfl | hpos
      · decide
      · have := (Nat.log2_lt hpos.ne').mpr hf; omega
    rw [if_pos he, hlog, he]
    simp
  · have hlog : Nat.log2 ((2 ^ 23 + f) * 2 ^ (e - 1)) - 23 = e - 1 := by
      rw [log2_scaled (by omega) (by omega), Nat.add_sub_cancel_left]
    rw [if_neg he, hlog, Nat.mul_div_cancel _ (Nat.two_pow_pos _)]
    omega

/-- Every magnitude that can be stored has fields, the exponent not all ones. -/
theorem exists_fieldUnits {k : Nat} (hk : k < 2 ^ 277) (hmod : k % 2 ^ (Nat.log2 k - 23) = 0) :
    ∃ e f, e ≤ 254 ∧ f < 2 ^ 23 ∧ fieldUnits e f = k := by
  by_cases hsmall : k < 2 ^ 23
  · exact ⟨0, k, by omega, hsmall, if_pos rfl⟩
  · have hk0 : k ≠ 0 := by omega
    have hlog : 23 ≤ Nat.log2 k := (Nat.le_log2 hk0).mpr (by omega)
    obtain ⟨j, hj⟩ : ∃ j, Nat.log2 k = 23 + j := ⟨_, (Nat.add_sub_cancel' hlog).symm⟩
    have hlo : 2 ^ (23 + j) ≤ k := hj ▸ Nat.log2_self_le hk0
    have hhi : k < 2 ^ (23 + j + 1) := hj ▸ Nat.lt_log2_self
    have hj_lt : 23 + j < 277 := (pow_lt_pow_iff_right₀ one_lt_two).mp (hlo.trans_lt hk)
    rw [hj, Nat.add_sub_cancel_left] at hmod
    obtain ⟨m, rfl⟩ := Nat.dvd_of_mod_eq_zero hmod
    have hm_ge : 2 ^ 23 ≤ m := Nat.le_of_mul_le_mul_left (by rwa [← pow_add, Nat.add_comm]) (Nat.two_pow_pos j)
    have hm_lt : m < 2 ^ 24 := Nat.lt_of_mul_lt_mul_left (a := 2 ^ j)
      (by rwa [← pow_add, show j + 24 = 23 + j + 1 by omega])
    refine ⟨j + 1, m - 2 ^ 23, by omega, by omega, ?_⟩
    rw [fieldUnits, if_neg (Nat.succ_ne_zero j), Nat.add_sub_cancel' hm_ge, Nat.add_sub_cancel, Nat.mul_comm]

/-! ## Patterns -/

/-- A pattern is its sign, its exponent and its fraction. -/
theorem toNat_eq_sign_exponent_fraction (w : Word) :
    w.toNat = w.msb.toNat * 2 ^ 31 + ((w.extractLsb' 23 8).toNat * 2 ^ 23 + (w.extractLsb' 0 23).toNat) := by
  have hlt := w.isLt
  have hsign : w.msb.toNat = w.toNat / 2 ^ 31 := by
    rw [BitVec.msb_eq_decide]
    by_cases h : 2 ^ 31 ≤ w.toNat
    · rw [decide_eq_true h]; show 1 = _; omega
    · rw [decide_eq_false h]; show 0 = _; omega
  simp only [hsign, BitVec.extractLsb'_toNat, Nat.shiftRight_eq_div_pow]
  omega

theorem unitsPattern_patternUnits (w : Word) :
    unitsPattern (patternUnits w) = (w.extractLsb' 23 8).toNat * 2 ^ 23 + (w.extractLsb' 0 23).toNat :=
  unitsPattern_fieldUnits (w.extractLsb' 0 23).isLt

theorem binary32Units_patternValue (w : Word) : binary32Units (patternValue w) = patternUnits w := by
  unfold patternValue
  simp only
  split
  · rw [binary32Units_neg]; exact (units_mkRat _).2
  · exact (units_mkRat _).2

/-- The value of a pattern is negative when its sign bit is set, but for the pattern of a negative zero. -/
theorem patternValue_neg_iff (w : Word) : patternValue w < 0 ↔ w.msb = true ∧ patternUnits w ≠ 0 := by
  unfold patternValue
  simp only [Rat.mkRat_eq_div]
  split
  · rename_i hsign
    simp [hsign, Nat.pos_iff_ne_zero]
  · rename_i hsign
    exact iff_of_false (not_lt.mpr (by positivity)) fun h => hsign h.1

/-- `enc` of the number a pattern stands for. -/
theorem Number.enc_of_val_eq {v : Number} {w : Word} (h : v.val = patternValue w) (hw : w ≠ 0x80000000) : v.enc = w := by
  have hfields := toNat_eq_sign_exponent_fraction w
  have hsign : (if v.val < 0 then 2 ^ 31 else 0) = w.msb.toNat * 2 ^ 31 := by
    cases hmsb : w.msb with
    | false => rw [h, if_neg (by simp [patternValue_neg_iff, hmsb])]; rfl
    | true =>
      have hunits : patternUnits w ≠ 0 := fun hzero => hw <| BitVec.eq_of_toNat_eq <| by
        have hnone := unitsPattern_patternUnits w
        rw [hzero, show unitsPattern 0 = 0 by decide] at hnone
        rw [hfields, ← hnone, hmsb]; rfl
      rw [h, if_pos ((patternValue_neg_iff w).mpr ⟨hmsb, hunits⟩)]; rfl
  rw [Number.enc_eq, h, binary32Units_patternValue, unitsPattern_patternUnits, ← h, hsign, ← hfields, BitVec.ofNat_toNat,
    BitVec.setWidth_eq]

/-! ## Every stored number has a pattern -/

theorem storable_iff (q : ℚ) :
    storable q = true ↔ q.den ∣ 2 ^ 149 ∧ binary32Units q < 2 ^ 277
      ∧ binary32Units q % 2 ^ (Nat.log2 (binary32Units q) - 23) = 0 := by
  rw [storable, Bool.and_eq_true, Bool.and_eq_true, beq_iff_eq, beq_iff_eq, decide_eq_true_iff, and_assoc,
    Nat.dvd_iff_mod_eq_zero]

/-- A number that can be stored is its count of units. -/
theorem abs_eq_units {q : ℚ} (h : q.den ∣ 2 ^ 149) : |q| = mkRat (binary32Units q) (2 ^ 149) := by
  obtain ⟨c, hc⟩ := h
  have hunits : binary32Units q = q.num.natAbs * c := by
    rw [binary32Units, hc, Nat.mul_div_cancel_left c q.den_pos]
  have hc0 : c ≠ 0 := fun h0 => by rw [h0, Nat.mul_zero] at hc; exact absurd hc (by positivity)
  rw [hunits, hc, Nat.cast_mul, Rat.mkRat_mul_right hc0, Rat.mkRat_eq_divInt, Rat.abs_def]

/-- Every sign, exponent and fraction are those of a pattern. -/
theorem exists_pattern (b : Bool) {e f : Nat} (he : e < 2 ^ 8) (hf : f < 2 ^ 23) :
    ∃ w : Word, w.msb = b ∧ (w.extractLsb' 23 8).toNat = e ∧ (w.extractLsb' 0 23).toNat = f := by
  have hb := b.toNat_le
  obtain ⟨w, hw⟩ : ∃ w : Word, w.toNat = b.toNat * 2 ^ 31 + (e * 2 ^ 23 + f) :=
    ⟨BitVec.ofNatLT _ (by omega), BitVec.toNat_ofNatLT _ _⟩
  have hfields := toNat_eq_sign_exponent_fraction w
  have hE := (w.extractLsb' 23 8).isLt
  have hF := (w.extractLsb' 0 23).isLt
  have hsign : w.msb.toNat = b.toNat := by omega
  have hinj : ∀ c d : Bool, c.toNat = d.toNat → c = d := by decide
  exact ⟨w, hinj _ _ hsign, by omega, by omega⟩

/-- Every stored number is the value of a finite pattern, which is not that of a negative zero. -/
theorem exists_patternValue (v : Number) : ∃ w, isFinitePattern w = true ∧ v.val = patternValue w ∧ w ≠ 0x80000000 := by
  obtain ⟨hden, hlt, hmod⟩ := (storable_iff v.val).mp v.fits
  obtain ⟨e, f, he, hf, hk⟩ := exists_fieldUnits hlt hmod
  obtain ⟨w, hmsb, hexp, hfrac⟩ := exists_pattern (decide (v.val < 0)) (show e < 2 ^ 8 by omega) hf
  have hunits : patternUnits w = binary32Units v.val := by rw [patternUnits_eq, hexp, hfrac, hk]
  have hval : v.val = patternValue w := by
    have habs := abs_eq_units hden
    simp only [patternValue, hunits, hmsb, decide_eq_true_eq, ← habs]
    split
    · rename_i hneg
      rw [abs_of_neg hneg, neg_neg]
    · rename_i hnonneg
      rw [abs_of_nonneg (not_lt.mp hnonneg)]
  refine ⟨w, ?_, hval, fun hzero => ?_⟩
  · rw [isFinitePattern, hexp, bne_iff_ne]; omega
  · have hnonneg : ¬ v.val < 0 := by rw [hval, patternValue_neg_iff, hzero]; decide
    rw [hzero, decide_eq_false hnonneg] at hmsb
    exact absurd hmsb (by decide)

end Sys2Proof

namespace Sys2Proof.Machine

/-- Settles O49: a number is encoded as the one pattern that stands for it and is no negative zero. -/
theorem encodingOfNumbersRoundTrips : Obligations.EncodingOfNumbersRoundTrips := by
  refine ⟨fun v => ?_, fun w hw => ?_, fun M hM v => ⟨hM.enc v, hM.dec v⟩⟩
  · obtain ⟨w, hfinite, hval, hw⟩ := exists_patternValue v
    rw [Number.enc_of_val_eq hval hw]
    exact Number.dec?_eq_some.mpr ⟨hfinite, hval⟩
  · exact ⟨⟨patternValue w, storable_patternValue hw⟩, Number.dec?_eq_some.mpr ⟨hw, rfl⟩, Number.enc_of_val_eq rfl⟩

end Sys2Proof.Machine
end

section
/-! The opcode map (O1 to O4): what a word is that the decoder reads or that a row of the opcode table selects, format by
format (R101, R105 of 30), and from that the agreement of decoder, encoder and table. -/

namespace Sys2Proof

variable {w : Word} {i : Instr} {op : Byte}

/-! ## The two directions for one command (R104, R105 of 30) -/

/-- The encoder is inverted by the decoder: the round trip of each command, for all of them. -/
theorem decode_encode (i : Instr) : decode (encode i) = .ok i := by
  cases i with
  | nop => exact Laws.RoundTrip.nop
  | init => exact Laws.RoundTrip.init
  | shutdown => exact Laws.RoundTrip.shutdown
  | frame => exact Laws.RoundTrip.frame
  | tblBrev => exact Laws.RoundTrip.tblBrev
  | tblTwid => exact Laws.RoundTrip.tblTwid
  | widen d a => exact Laws.RoundTrip.widen d a
  | center d a => exact Laws.RoundTrip.center d a
  | conj d a => exact Laws.RoundTrip.conj d a
  | scale d a => exact Laws.RoundTrip.scale d a
  | toMag d a => exact Laws.RoundTrip.toMag d a
  | toPhase d a => exact Laws.RoundTrip.toPhase d a
  | toReal d a => exact Laws.RoundTrip.toReal d a
  | copyP d a => exact Laws.RoundTrip.copyP d a
  | copyS d a => exact Laws.RoundTrip.copyS d a
  | zero d => exact Laws.RoundTrip.zero d
  | add d a b => exact Laws.RoundTrip.add d a b
  | mulM d a b => exact Laws.RoundTrip.mulM d a b
  | brevRow d a => exact Laws.RoundTrip.brevRow d a
  | brevCol d a => exact Laws.RoundTrip.brevCol d a
  | bflyRow d a s => exact Laws.RoundTrip.bflyRow d a s
  | bflyCol d a s => exact Laws.RoundTrip.bflyCol d a s
  | fftFwd d a => exact Laws.RoundTrip.fftFwd d a
  | fftInv d a => exact Laws.RoundTrip.fftInv d a
  | pamp d a b => exact Laws.RoundTrip.pamp d a b
  | genMask d level => exact Laws.RoundTrip.genMask d level
  | genFilt => exact Laws.RoundTrip.genFilt

/-- Every command's word selects a row, for all commands. -/
theorem exists_row_selects_encode (i : Instr) : ∃ r ∈ opcodeRows, r.selects (encode i) = true := by
  cases i with
  | nop => exact Laws.SelectsRow.nop
  | init => exact Laws.SelectsRow.init
  | shutdown => exact Laws.SelectsRow.shutdown
  | frame => exact Laws.SelectsRow.frame
  | tblBrev => exact Laws.SelectsRow.tblBrev
  | tblTwid => exact Laws.SelectsRow.tblTwid
  | widen d a => exact Laws.SelectsRow.widen d a
  | center d a => exact Laws.SelectsRow.center d a
  | conj d a => exact Laws.SelectsRow.conj d a
  | scale d a => exact Laws.SelectsRow.scale d a
  | toMag d a => exact Laws.SelectsRow.toMag d a
  | toPhase d a => exact Laws.SelectsRow.toPhase d a
  | toReal d a => exact Laws.SelectsRow.toReal d a
  | copyP d a => exact Laws.SelectsRow.copyP d a
  | copyS d a => exact Laws.SelectsRow.copyS d a
  | zero d => exact Laws.SelectsRow.zero d
  | add d a b => exact Laws.SelectsRow.add d a b
  | mulM d a b => exact Laws.SelectsRow.mulM d a b
  | brevRow d a => exact Laws.SelectsRow.brevRow d a
  | brevCol d a => exact Laws.SelectsRow.brevCol d a
  | bflyRow d a s => exact Laws.SelectsRow.bflyRow d a s
  | bflyCol d a s => exact Laws.SelectsRow.bflyCol d a s
  | fftFwd d a => exact Laws.SelectsRow.fftFwd d a
  | fftInv d a => exact Laws.SelectsRow.fftInv d a
  | pamp d a b => exact Laws.SelectsRow.pamp d a b
  | genMask d level => exact Laws.SelectsRow.genMask d level
  | genFilt => exact Laws.SelectsRow.genFilt

/-! ## What a format reads is the word itself (R101 of 30) -/

theorem packWord_eq_of_fields {b a d : Byte} (hb : bField w = b) (ha : aField w = a) (hd : dField w = d)
    (hop : opField w = op) : packWord b a d op = w := by
  subst hb ha hd hop
  exact packWord_fields w

theorem encode_of_formatZ {j : Instr} (h : formatZ w j = .ok i) (henc : encode j = packWord 0 0 0 op)
    (hop : opField w = op) : encode i = w := by
  unfold formatZ at h
  split at h
  next hunused =>
    obtain ⟨hd, ha, hb⟩ := hunused
    cases h
    exact henc.trans (packWord_eq_of_fields hb ha hd hop)
  next => cases h

theorem encode_of_formatD {c : Byte → Instr} (h : formatD w c = .ok i) (henc : ∀ d, encode (c d) = packWord 0 0 d op)
    (hop : opField w = op) : encode i = w := by
  unfold formatD at h
  split at h
  next hunused =>
    obtain ⟨ha, hb⟩ := hunused
    cases h
    exact (henc _).trans (packWord_eq_of_fields hb ha rfl hop)
  next => cases h

theorem encode_of_formatDA {c : Byte → Byte → Instr} (h : formatDA w c = .ok i)
    (henc : ∀ d a, encode (c d a) = packWord 0 a d op) (hop : opField w = op) : encode i = w := by
  unfold formatDA at h
  split at h
  next hb =>
    cases h
    exact (henc _ _).trans (packWord_eq_of_fields hb rfl rfl hop)
  next => cases h

theorem encode_of_formatDAB {c : Byte → Byte → Byte → Instr} (h : formatDAB w c = .ok i)
    (henc : ∀ d a b, encode (c d a b) = packWord b a d op) (hop : opField w = op) : encode i = w := by
  cases h
  exact (henc _ _ _).trans (packWord_eq_of_fields rfl rfl rfl hop)

theorem encode_of_formatDI {c : Byte → Byte → Instr} (h : formatDI w c = .ok i)
    (henc : ∀ d level, encode (c d level) = packWord level 0 d op) (hop : opField w = op) : encode i = w := by
  unfold formatDI at h
  split at h
  next ha =>
    cases h
    exact (henc _ _).trans (packWord_eq_of_fields rfl ha rfl hop)
  next => cases h

/-- The decoder is inverted by the encoder, opcode by opcode. -/
theorem encode_of_decode (h : decode w = .ok i) : encode i = w := by
  unfold decode at h
  split at h
  case h_1 hop | h_2 hop | h_3 hop | h_4 hop | h_5 hop | h_6 hop | h_27 hop =>
    exact encode_of_formatZ h rfl (BitVec.eq_of_toNat_eq hop)
  case h_16 hop => exact encode_of_formatD h (fun _ => rfl) (BitVec.eq_of_toNat_eq hop)
  case h_7 hop | h_8 hop | h_9 hop | h_10 hop | h_11 hop | h_12 hop | h_13 hop | h_14 hop | h_15 hop | h_19 hop
      | h_20 hop | h_23 hop | h_24 hop =>
    exact encode_of_formatDA h (fun _ _ => rfl) (BitVec.eq_of_toNat_eq hop)
  case h_17 hop | h_18 hop | h_21 hop | h_22 hop | h_25 hop =>
    exact encode_of_formatDAB h (fun _ _ _ => rfl) (BitVec.eq_of_toNat_eq hop)
  case h_26 hop => exact encode_of_formatDI h (fun _ _ => rfl) (BitVec.eq_of_toNat_eq hop)
  case h_28 => cases h

theorem decode_eq_ok_iff : decode w = .ok i ↔ encode i = w :=
  ⟨encode_of_decode, fun h => h ▸ decode_encode i⟩

/-! ## What a row selects (R105 of 30) -/

@[simp] theorem and_fullByte (x : Byte) : x &&& 0xFF#8 = x := BitVec.and_allOnes

/-- A row looks at each field by itself. -/
theorem OpcodeRow.fields_of_selects {r : OpcodeRow} (h : r.selects w = true) :
    bField w &&& bField r.opMask = bField r.pattern ∧ aField w &&& aField r.opMask = aField r.pattern
    ∧ dField w &&& dField r.opMask = dField r.pattern ∧ opField w &&& opField r.opMask = opField r.pattern := by
  have hmatch : w &&& r.opMask = r.pattern := beq_iff_eq.mp h
  simp only [← hmatch, bField, aField, dField, opField, BitVec.extractLsb'_and, and_self]

/-- Every row looks at the whole opcode byte and asks nothing of a field but that it is zero (R105). -/
theorem opcodeRows_opByte :
    ∀ r ∈ opcodeRows, r.opMask &&& 0x000000FF#32 = 0x000000FF#32 ∧ r.pattern &&& 0x000000FF#32 = r.pattern := by decide

theorem opcodeRows_patterns_nodup : (opcodeRows.map OpcodeRow.pattern).Nodup := by decide

/-- A row that selects a word has the word's opcode byte as its match. -/
theorem OpcodeRow.pattern_of_selects {r : OpcodeRow} (hr : r ∈ opcodeRows) (h : r.selects w = true) :
    r.pattern = w &&& 0x000000FF#32 := by
  obtain ⟨hmask, hpattern⟩ := opcodeRows_opByte r hr
  have hmatch : w &&& r.opMask = r.pattern := beq_iff_eq.mp h
  calc r.pattern = w &&& r.opMask &&& 0x000000FF#32 := by rw [hmatch, hpattern]
    _ = w &&& 0x000000FF#32 := by rw [BitVec.and_assoc, hmask]

/-- The rows that select a word share its opcode byte, and no two rows have the same. -/
theorem length_selecting_rows_le_one (w : Word) : (opcodeRows.filter fun r => r.selects w).length ≤ 1 := by
  have hpattern : ∀ r ∈ opcodeRows, r.selects w = true → (r.pattern == w &&& 0x000000FF#32) = true :=
    fun r hr h => beq_iff_eq.mpr (OpcodeRow.pattern_of_selects hr h)
  calc (opcodeRows.filter fun r => r.selects w).length
      = opcodeRows.countP fun r => r.selects w := List.countP_eq_length_filter.symm
    _ ≤ opcodeRows.countP fun r => r.pattern == w &&& 0x000000FF#32 := List.countP_mono_left hpattern
    _ = (opcodeRows.map OpcodeRow.pattern).count (w &&& 0x000000FF#32) := by rw [List.count, List.countP_map]; rfl
    _ ≤ 1 := List.nodup_iff_count_le_one.mp opcodeRows_patterns_nodup _

/-! ## A selected word is the word of a command, format by format -/

theorem packWord_of_selects_formatZ (h : OpcodeRow.selects ⟨packWord 0xFF 0xFF 0xFF 0xFF, packWord 0 0 0 op⟩ w = true) :
    packWord 0 0 0 op = w := by
  obtain ⟨hb, ha, hd, hop⟩ := OpcodeRow.fields_of_selects h
  exact packWord_eq_of_fields (by simpa using hb) (by simpa using ha) (by simpa using hd) (by simpa using hop)

theorem packWord_of_selects_formatD (h : OpcodeRow.selects ⟨packWord 0xFF 0xFF 0 0xFF, packWord 0 0 0 op⟩ w = true) :
    packWord 0 0 (dField w) op = w := by
  obtain ⟨hb, ha, -, hop⟩ := OpcodeRow.fields_of_selects h
  exact packWord_eq_of_fields (by simpa using hb) (by simpa using ha) rfl (by simpa using hop)

theorem packWord_of_selects_formatDA (h : OpcodeRow.selects ⟨packWord 0xFF 0 0 0xFF, packWord 0 0 0 op⟩ w = true) :
    packWord 0 (aField w) (dField w) op = w := by
  obtain ⟨hb, -, -, hop⟩ := OpcodeRow.fields_of_selects h
  exact packWord_eq_of_fields (by simpa using hb) rfl rfl (by simpa using hop)

theorem packWord_of_selects_formatDAB (h : OpcodeRow.selects ⟨packWord 0 0 0 0xFF, packWord 0 0 0 op⟩ w = true) :
    packWord (bField w) (aField w) (dField w) op = w := by
  obtain ⟨-, -, -, hop⟩ := OpcodeRow.fields_of_selects h
  exact packWord_eq_of_fields rfl rfl rfl (by simpa using hop)

theorem packWord_of_selects_formatDI (h : OpcodeRow.selects ⟨packWord 0 0xFF 0 0xFF, packWord 0 0 0 op⟩ w = true) :
    packWord (bField w) 0 (dField w) op = w := by
  obtain ⟨-, ha, -, hop⟩ := OpcodeRow.fields_of_selects h
  exact packWord_eq_of_fields rfl (by simpa using ha) rfl (by simpa using hop)

/-- Every row selects words of its own command only, row by row in the order of the table. -/
theorem exists_encode_of_selects : ∀ r ∈ opcodeRows, r.selects w = true → ∃ i, encode i = w := by
  simp only [opcodeRows, List.forall_mem_cons]
  exact ⟨fun h => ⟨.nop, packWord_of_selects_formatZ h⟩,
    fun h => ⟨.init, packWord_of_selects_formatZ h⟩,
    fun h => ⟨.shutdown, packWord_of_selects_formatZ h⟩,
    fun h => ⟨.frame, packWord_of_selects_formatZ h⟩,
    fun h => ⟨.tblBrev, packWord_of_selects_formatZ h⟩,
    fun h => ⟨.tblTwid, packWord_of_selects_formatZ h⟩,
    fun h => ⟨.widen _ _, packWord_of_selects_formatDA h⟩,
    fun h => ⟨.center _ _, packWord_of_selects_formatDA h⟩,
    fun h => ⟨.conj _ _, packWord_of_selects_formatDA h⟩,
    fun h => ⟨.scale _ _, packWord_of_selects_formatDA h⟩,
    fun h => ⟨.toMag _ _, packWord_of_selects_formatDA h⟩,
    fun h => ⟨.toPhase _ _, packWord_of_selects_formatDA h⟩,
    fun h => ⟨.toReal _ _, packWord_of_selects_formatDA h⟩,
    fun h => ⟨.copyP _ _, packWord_of_selects_formatDA h⟩,
    fun h => ⟨.copyS _ _, packWord_of_selects_formatDA h⟩,
    fun h => ⟨.zero _, packWord_of_selects_formatD h⟩,
    fun h => ⟨.add _ _ _, packWord_of_selects_formatDAB h⟩,
    fun h => ⟨.mulM _ _ _, packWord_of_selects_formatDAB h⟩,
    fun h => ⟨.brevRow _ _, packWord_of_selects_formatDA h⟩,
    fun h => ⟨.brevCol _ _, packWord_of_selects_formatDA h⟩,
    fun h => ⟨.bflyRow _ _ _, packWord_of_selects_formatDAB h⟩,
    fun h => ⟨.bflyCol _ _ _, packWord_of_selects_formatDAB h⟩,
    fun h => ⟨.fftFwd _ _, packWord_of_selects_formatDA h⟩,
    fun h => ⟨.fftInv _ _, packWord_of_selects_formatDA h⟩,
    fun h => ⟨.pamp _ _ _, packWord_of_selects_formatDAB h⟩,
    fun h => ⟨.genMask _ _, packWord_of_selects_formatDI h⟩,
    fun h => ⟨.genFilt, packWord_of_selects_formatZ h⟩,
    List.forall_mem_nil _⟩

/-- A word is a command exactly when it selects a row (R105). -/
theorem exists_decode_iff_exists_row : (∃ i, decode w = .ok i) ↔ ∃ r ∈ opcodeRows, r.selects w = true := by
  simp only [decode_eq_ok_iff]
  constructor
  · rintro ⟨i, rfl⟩
    exact exists_row_selects_encode i
  · rintro ⟨r, hr, h⟩
    exact exists_encode_of_selects r hr h

end Sys2Proof

namespace Sys2Proof.Machine

/-- Settles O1: decoder and encoder are inverse to each other, opcode by opcode. -/
theorem decodeAndEncodeAgree : Obligations.DecodeAndEncodeAgree := fun _ _ => decode_eq_ok_iff

/-- Settles O2: a selecting row is settled by the word's opcode byte. -/
theorem wordSelectsAtMostOneRow : Obligations.WordSelectsAtMostOneRow := by
  refine fun w => ⟨length_selecting_rows_le_one w, exists_decode_iff_exists_row, fun i r hdecode hr h => ?_⟩
  rw [encode_of_decode hdecode]
  exact OpcodeRow.pattern_of_selects hr h

/-- Settles O4: a word without a row is no command, so the sequencer's turn abandons it. -/
theorem wordWithoutRowIsIllegal : Obligations.WordWithoutRowIsIllegal := by
  intro s hbusy hnone
  have hrun : s.sequence binary32 = s.runCurrent binary32 := if_pos hbusy
  refine ⟨s.abandon .illcmd, hrun.trans ?_, abandonedWith_abandon s .illcmd⟩
  obtain ⟨i, hdecode, -⟩ | ⟨-, hillegal⟩ := State.runCurrent_cases binary32 s
  · obtain ⟨r, hr, hselects⟩ := exists_decode_iff_exists_row.mp ⟨i, hdecode⟩
    exact absurd hselects (Bool.eq_false_iff.mp (hnone r hr))
  · exact hillegal

/-- Settles O3: each listed word is its command's encoding, and is therefore read as that command (O1). -/
theorem workedEncodingsDecode : Obligations.WorkedEncodingsDecode := by
  intro p hp
  have hencode : encode p.2 = p.1 := by
    revert p
    decide
  exact ⟨decode_eq_ok_iff.mpr hencode, hencode⟩

end Sys2Proof.Machine
end

section
/-! The bit reversal (R131 of 40; O50): its range, its bits, and that it is its own inverse. -/

namespace Sys2Proof.Machine

theorem reverseBits_lt (i n : Nat) : reverseBits i n < 2 ^ n := by
  induction n generalizing i with
  | zero => exact Nat.one_pos
  | succ n ih =>
    have hbit : i % 2 * 2 ^ n ≤ 2 ^ n := mul_le_of_le_one_left' (Nat.le_of_lt_succ (Nat.mod_lt i two_pos))
    calc reverseBits i (n + 1) = i % 2 * 2 ^ n + reverseBits (i / 2) n := reverseBits_succ i n
      _ < 2 ^ n + 2 ^ n := Nat.add_lt_add_of_le_of_lt hbit (ih _)
      _ = 2 ^ (n + 1) := by rw [pow_succ, mul_two]

theorem testBit_reverseBits (i n j : Nat) : (reverseBits i n).testBit j = (decide (j < n) && i.testBit (n - 1 - j)) := by
  induction n generalizing i with
  | zero => simp [reverseBits_zero]
  | succ n ih =>
    rw [reverseBits_succ, Nat.mul_comm, Nat.testBit_two_pow_mul_add _ (reverseBits_lt _ _)]
    rcases Nat.lt_trichotomy j n with hlt | rfl | hgt
    · rw [if_pos hlt, ih, decide_eq_true hlt, decide_eq_true (Nat.lt_succ_of_lt hlt), Nat.testBit_div_two]
      congr 2
      omega
    · simp
    · rw [if_neg (by omega), decide_eq_false (by omega), Bool.false_and]
      refine Nat.testBit_lt_two_pow (lt_of_lt_of_le (Nat.mod_lt i two_pos) ?_)
      exact Nat.le_self_pow (by omega) 2

theorem reverseBits_reverseBits {i n : Nat} (h : i < 2 ^ n) : reverseBits (reverseBits i n) n = i := by
  refine Nat.eq_of_testBit_eq fun j => ?_
  rw [testBit_reverseBits, testBit_reverseBits]
  rcases Nat.lt_or_ge j n with hj | hj
  · rw [decide_eq_true hj, decide_eq_true (show n - 1 - j < n by omega), Bool.true_and, Bool.true_and]
    congr 1
    omega
  · rw [decide_eq_false (Nat.not_lt.mpr hj), Bool.false_and, Nat.testBit_lt_two_pow]
    exact h.trans_le (Nat.pow_le_pow_right two_pos hj)

/-- Settles O50: every bit of the reversal is a bit of the argument, and so the bits of the double reversal are its own. -/
theorem reverseBitsIsInvolution : Obligations.ReverseBitsIsInvolution := by
  refine fun i n h => ⟨reverseBits_lt i n, fun t ht => ?_, reverseBits_reverseBits h⟩
  rw [testBit_reverseBits, decide_eq_true (show n - 1 - t < n by omega), Bool.true_and]
  congr 1
  omega

end Sys2Proof.Machine
end

section
/-! The primitives of 40_spectral_primitives as commands, and TOREAL of 41 (O23 to O29): a command checks its operands and runs
one dispatch, whose effect is said once in `writesSpectrum_dispatchS` and `writesPlane_dispatchP`. -/

namespace Sys2Proof

/-! ## Zero in `binary32` (log 2, 3) -/

theorem Number.mul_storedZero (x : Number) : Number.mul x Number.zero = Number.zero := by
  have hexact : x.val * Number.zero.val = Number.zero.val := mul_zero x.val
  refine Number.ext_val ((Number.result_val ?_).trans hexact)
  rw [hexact]
  exact Number.zero.fits

theorem Number.storedZero_div {y : Number} (hy : y.val ≠ 0) : Number.div Number.zero y = Number.zero := by
  have hexact : Number.zero.val / y.val = Number.zero.val := zero_div y.val
  refine Number.ext_val ((Number.div_val hy ?_).trans hexact)
  rw [hexact]
  exact Number.zero.fits

theorem Number.cos_storedZero : Number.cos Number.zero = Number.ofNat 1 := if_pos rfl

theorem Number.sin_storedZero : Number.sin Number.zero = Number.zero := if_pos rfl

end Sys2Proof

namespace Sys2Proof.Machine

/-! ## Exact values in `binary32` (R131, R133 of 40) -/

@[simp] theorem numerics_cos (x : Number) : numerics.cos x = Number.cos x := rfl

@[simp] theorem numerics_sin (x : Number) : numerics.sin x = Number.sin x := rfl

theorem ofNat_n_val (s : State) : (Number.ofNat s.n).val = (s.n : ℕ) :=
  Number.ofNat_two_pow (by have := s.logn.isLt; omega)

/-- "`N*N` converted exactly" (R131). -/
theorem ofNat_n_mul_n_val (s : State) : (Number.ofNat (s.n * s.n)).val = (s.n * s.n : ℕ) := by
  rw [State.n, ← pow_add]
  exact Number.ofNat_two_pow (by have := s.logn.isLt; omega)

/-- The first factor of the twiddle table has the angle 0, at which `cos` and `sin` are exact (log 3). -/
theorem twiddle_zero {n : Nat} (hn : (Number.ofNat n).val ≠ 0) :
    twiddle numerics n 0 = ⟨Number.ofNat 1, Number.zero⟩ := by
  have hangle : numerics.div (numerics.mul (numerics.mul (numerics.neg (numerics.ofNat 2)) numerics.pi) (numerics.ofNat 0))
      (numerics.ofNat n) = Number.zero := by
    rw [numerics_ofNat 0, Number.ofNat_zero, numerics_mul _ Number.zero, Number.mul_storedZero, numerics_div, numerics_ofNat,
      Number.storedZero_div hn]
  simp only [twiddle, hangle, numerics_cos, numerics_sin, Number.cos_storedZero, Number.sin_storedZero]

/-! ## Commands that check their operands and run (R108 of 30, R250 of 44) -/

section
variable {β : Type} {i : Instr} {s : State} {r : Except CmdError β}

/-- A command abandoned with the error of its checks. -/
theorem exists_abandonedWith {f : β → Except CmdError State} {e : CmdError} (hexec : exec i s = s.finish (r >>= f))
    (hr : r = .error e) : ∃ t, exec i s = .next t ∧ AbandonedWith s t e.code := by
  subst hr
  exact ⟨s.abandon e, hexec, abandonedWith_abandon s e⟩

/-- A command whose only errors are those of its operands and of the session. -/
theorem decodeOnlyErrors_of_checks {f : β → Except CmdError State} (hexec : exec i s = s.finish (r >>= f))
    (hillcmd : i.kindsOk = false → r = .error .illcmd)
    (hstate : i.kindsOk = true → s.session = .uninitialized → r = .error .state) : DecodeOnlyErrors i s :=
  ⟨fun hkinds => exists_abandonedWith hexec (hillcmd hkinds),
    fun hkinds hclosed => exists_abandonedWith hexec (hstate hkinds hclosed)⟩

/-- A command of one dispatch on a spectrum, its checks passed. -/
theorem exists_writesSpectrum {d : β → Spectrum} {lane : β → Nat → Nat → Cplx Number} {x : β}
    (hexec : exec i s = s.finish (r >>= fun x => .ok (s.dispatchS (d x) (lane x)))) (hr : r = .ok x) :
    ∃ t, exec i s = .next t ∧ WritesSpectrum binary32 s t (d x) (lane x) := by
  subst hr
  exact ⟨_, hexec, writesSpectrum_dispatchS binary32 s (d x) (lane x)⟩

/-- A command of one dispatch on a plane, its checks passed; it ends with R231 of 43. -/
theorem exists_writesPlane {d : β → Plane} {lane : β → Nat → Nat → Number} {x : β}
    (hexec : exec i s = s.finish (r >>= fun x => .ok ((s.dispatchP (d x) (lane x)).planeTouched (d x)))) (hr : r = .ok x) :
    ∃ t, exec i s = .next t ∧ WritesPlane binary32 s t (d x) (lane x) := by
  subst hr
  exact ⟨_, hexec, writesPlane_dispatchP binary32 s (d x) (lane x)⟩

end

/-! ## The commands, each as its checks and its dispatch -/

section
variable (d a : Byte) (s : State)

theorem exec_tblBrev : exec .tblBrev s = s.finish (needSession s >>= fun _ => .ok s.fillBrt) := rfl

theorem exec_tblTwid : exec .tblTwid s = s.finish (needSession s >>= fun _ => .ok (s.fillTwt binary32)) := rfl

theorem exec_widen : exec (.widen d a) s = s.finish (operandsSP d a s >>= fun x =>
    .ok (s.dispatchS x.1 fun u v => ⟨s.planeAt binary32 x.2 u v, numerics.ofNat 0⟩)) := rfl

theorem exec_center : exec (.center d a) s = s.finish (operandsSS d a s >>= fun x =>
    .ok (s.dispatchS x.1 fun u v => centerLane numerics u v (s.specAt binary32 x.2 u v))) := rfl

theorem exec_conj : exec (.conj d a) s = s.finish (operandsSS d a s >>= fun x =>
    .ok (s.dispatchS x.1 fun u v => numerics.conj (s.specAt binary32 x.2 u v))) := rfl

theorem exec_scale : exec (.scale d a) s = s.finish (operandsSS d a s >>= fun x =>
    .ok (s.dispatchS x.1 fun u v => numerics.cdiv (s.specAt binary32 x.2 u v) (numerics.ofNat (s.n * s.n)))) := rfl

theorem exec_toMag : exec (.toMag d a) s = s.finish (operandsPS d a s >>= fun x =>
    .ok ((s.dispatchP x.1 fun u v => numerics.mag (s.specAt binary32 x.2 u v)).planeTouched x.1)) := rfl

theorem exec_toPhase : exec (.toPhase d a) s = s.finish (operandsPS d a s >>= fun x =>
    .ok ((s.dispatchP x.1 fun u v => numerics.arg (s.specAt binary32 x.2 u v)).planeTouched x.1)) := rfl

theorem exec_toReal : exec (.toReal d a) s = s.finish (operandsPS d a s >>= fun x =>
    .ok ((s.dispatchP x.1 fun u v => (s.specAt binary32 x.2 u v).re).planeTouched x.1)) := rfl

theorem exec_copyP : exec (.copyP d a) s = s.finish (operandsPP d a s >>= fun x =>
    .ok ((s.dispatchP x.1 fun u v => s.planeAt binary32 x.2 u v).planeTouched x.1)) := rfl

theorem exec_copyS : exec (.copyS d a) s = s.finish (operandsSS d a s >>= fun x =>
    .ok (s.dispatchS x.1 fun u v => s.specAt binary32 x.2 u v)) := rfl

end

/-! ## The obligations -/

/-- Settles O23: what a dispatch on a table leaves in it; the angle of `TWT[0]` is exactly 0, as `N` is not. -/
theorem tableCommandsWriteTables : Obligations.TableCommandsWriteTables := by
  refine ⟨fun s => ⟨rfl, fun hs => ?_, decodeOnlyErrors_of_checks (exec_tblBrev s) nofun fun _ => needSession_error⟩,
    fun s => ⟨rfl, fun hs => ?_, decodeOnlyErrors_of_checks (exec_tblTwid s) nofun fun _ => needSession_error⟩⟩
  · have hexec : exec .tblBrev s = .next s.fillBrt.complete := by rw [exec_tblBrev, needSession_ok hs]; rfl
    exact ⟨_, hexec, fun i hi => (State.brtEntry_dispatchBrt s _ i).trans (if_pos hi), rfl, rfl, rfl⟩
  · have hexec : exec .tblTwid s = .next (s.fillTwt binary32).complete := by rw [exec_tblTwid, needSession_ok hs]; rfl
    have hentry (k : Nat) (hk : k < s.n / 2) :
        (s.fillTwt binary32).complete.twtEntry binary32 k = twiddle numerics s.n k :=
      (State.twtEntry_dispatchTwt binary32 s _ k).trans (if_pos hk)
    refine ⟨_, hexec, hentry, fun hlogn => ?_, rfl, rfl, rfl⟩
    have hhalf : 0 < s.n / 2 := Nat.div_pos (Nat.le_self_pow (by omega) 2) two_pos
    have hn : (Number.ofNat s.n).val ≠ 0 := by rw [ofNat_n_val]; exact Nat.cast_ne_zero.mpr s.n_pos.ne'
    rw [hentry 0 hhalf, twiddle_zero hn]
    exact ⟨Number.ofNat_small (by omega), rfl⟩

/-- Settles O24: the zero that WIDEN converts is the stored zero. -/
theorem widenSetsImaginaryZero : Obligations.WidenSetsImaginaryZero := by
  refine fun d a s => ⟨rfl, fun dq ap hd ha hs => ?_,
    decodeOnlyErrors_of_checks (exec_widen d a s) operandsSP_illcmd operandsSP_state⟩
  have hwrites := exists_writesSpectrum (exec_widen d a s) (operandsSP_ok hd ha hs)
  rwa [numerics_ofNat, Number.ofNat_zero] at hwrites

/-- Settles O25: both are one dispatch on a spectrum, which reads the state before it. -/
theorem centerAndConjNegate : Obligations.CenterAndConjNegate :=
  ⟨fun d a s => ⟨rfl, fun _ _ hd ha hs => exists_writesSpectrum (exec_center d a s) (operandsSS_ok hd ha hs),
      decodeOnlyErrors_of_checks (exec_center d a s) operandsSS_illcmd operandsSS_state⟩,
    fun d a s => ⟨rfl, fun _ _ hd ha hs => exists_writesSpectrum (exec_conj d a s) (operandsSS_ok hd ha hs),
      decodeOnlyErrors_of_checks (exec_conj d a s) operandsSS_illcmd operandsSS_state⟩⟩

/-- Settles O26: the divisor is a power of two of at most 32 bits, so it is exact. -/
theorem scaleDividesByElementCount : Obligations.ScaleDividesByElementCount := by
  refine fun d a s => ⟨rfl, fun dq aq hd ha hs => ?_,
    decodeOnlyErrors_of_checks (exec_scale d a s) operandsSS_illcmd operandsSS_state⟩
  obtain ⟨t, hexec, hwrites⟩ := exists_writesSpectrum (exec_scale d a s) (operandsSS_ok hd ha hs)
  exact ⟨t, Number.ofNat (s.n * s.n), hexec, ofNat_n_mul_n_val s, hwrites⟩

/-- Settles O27: a written element is a square root. -/
theorem toMagWritesMagnitude : Obligations.ToMagWritesMagnitude := by
  refine fun d a s => ⟨rfl, fun dp aq hd ha hs => ?_,
    decodeOnlyErrors_of_checks (exec_toMag d a s) operandsPS_illcmd operandsPS_state⟩
  obtain ⟨t, hexec, hwrites⟩ := exists_writesPlane (exec_toMag d a s) (operandsPS_ok hd ha hs)
  refine ⟨t, hexec, hwrites, fun x y hx hy => ?_⟩
  rw [hwrites.written x y hx hy]
  exact Number.sqrt_nonneg _

/-- Settles O28: a written element is a value of `atan2`, with its range and its value on the real axis. -/
theorem toPhaseWritesPhase : Obligations.ToPhaseWritesPhase := by
  refine fun d a s => ⟨rfl, fun dp aq hd ha hs => ?_,
    decodeOnlyErrors_of_checks (exec_toPhase d a s) operandsPS_illcmd operandsPS_state⟩
  obtain ⟨t, hexec, hwrites⟩ := exists_writesPlane (exec_toPhase d a s) (operandsPS_ok hd ha hs)
  refine ⟨t, hexec, hwrites, fun x y hx hy => ?_⟩
  have hphase : t.planeAt binary32 dp x y
      = Number.atan2 (s.specAt binary32 aq x y).im (s.specAt binary32 aq x y).re := hwrites.written x y hx hy
  rw [hphase]
  obtain ⟨hlow, hhigh⟩ := Number.atan2_mem (s.specAt binary32 aq x y).im (s.specAt binary32 aq x y).re
  refine ⟨hlow, hhigh, fun him => ?_⟩
  have hzero : (s.specAt binary32 aq x y).im = Number.zero := Number.ext_val him
  rw [hzero, Number.atan2_zero]

/-- Settles O29: each is one dispatch, on a spectrum or on a plane, which reads the state before it. -/
theorem copiesAreElementwise : Obligations.CopiesAreElementwise :=
  ⟨fun d a s => ⟨rfl, fun _ _ hd ha hs => exists_writesPlane (exec_copyP d a s) (operandsPP_ok hd ha hs),
      decodeOnlyErrors_of_checks (exec_copyP d a s) operandsPP_illcmd operandsPP_state⟩,
    fun d a s => ⟨rfl, fun _ _ hd ha hs => exists_writesSpectrum (exec_copyS d a s) (operandsSS_ok hd ha hs),
      decodeOnlyErrors_of_checks (exec_copyS d a s) operandsSS_illcmd operandsSS_state⟩,
    fun d a s => ⟨rfl, fun _ _ hd ha hs => exists_writesPlane (exec_toReal d a s) (operandsPS_ok hd ha hs),
      decodeOnlyErrors_of_checks (exec_toReal d a s) operandsPS_illcmd operandsPS_state⟩⟩

end Sys2Proof.Machine
end

section
/-! The permutes and butterfly passes as commands (O32, O33): a gather command checks its operands, a butterfly pass also its
stage, then that its destination is not its source, and runs one dispatch, whose effect is said once in
`writesSpectrum_dispatchS`. -/

namespace Sys2Proof.Machine

/-! ## The commands, each as its checks and its dispatch (R160 to R163 of 41) -/

section
variable (d a st : Byte) (s : State)

theorem exec_brevRow : exec (.brevRow d a) s = s.finish (operandsGather d a s >>= fun x =>
    .ok (s.dispatchS x.1 fun u v => s.specAt binary32 x.2 (s.brtEntry u) v)) := rfl

theorem exec_brevCol : exec (.brevCol d a) s = s.finish (operandsGather d a s >>= fun x =>
    .ok (s.dispatchS x.1 fun u v => s.specAt binary32 x.2 u (s.brtEntry v))) := rfl

theorem exec_bflyRow : exec (.bflyRow d a st) s = s.finish (operandsStage d a st s >>= fun x =>
    .ok (s.dispatchS x.1 fun u v =>
      butterfly numerics s.n x.2.2 (s.twtEntry binary32) (fun i => s.specAt binary32 x.2.1 i v) u)) := rfl

theorem exec_bflyCol : exec (.bflyCol d a st) s = s.finish (operandsStage d a st s >>= fun x =>
    .ok (s.dispatchS x.1 fun u v =>
      butterfly numerics s.n x.2.2 (s.twtEntry binary32) (fun i => s.specAt binary32 x.2.1 u i) v)) := rfl

end

/-! ## What the checks of a gather command make of it (R108 of 30, R283 of 60) -/

section
variable {i : Instr} {d a st : Byte} {dq aq : Spectrum} {s : State}
variable (hd : spectrumOf d = some dq) (ha : spectrumOf a = some aq) (hs : s.session ≠ .uninitialized)
include hd ha hs

/-- A permute writes its lanes, or is abandoned for its aliasing. -/
theorem gather_writes_or_aliases {lane : Spectrum × Spectrum → Nat → Nat → Cplx Number}
    (hexec : exec i s = s.finish (operandsGather d a s >>= fun x => .ok (s.dispatchS x.1 (lane x)))) :
    (d ≠ a → ∃ t, exec i s = .next t ∧ WritesSpectrum binary32 s t dq (lane (dq, aq)))
      ∧ (d = a → ∃ t, exec i s = .next t ∧ AbandonedWith s t 5) :=
  ⟨fun hne => exists_writesSpectrum hexec (operandsGather_ok hd ha hs hne),
    fun heq => exists_abandonedWith hexec (operandsGather_alias hd ha hs heq)⟩

/-- A pass writes its lanes, or is abandoned for its stage, or else for its aliasing. -/
theorem pass_writes_or_fails {lane : Spectrum × Spectrum × Nat → Nat → Nat → Cplx Number}
    (hexec : exec i s = s.finish (operandsStage d a st s >>= fun x => .ok (s.dispatchS x.1 (lane x)))) :
    (1 ≤ st.toNat → st.toNat ≤ s.logn.val → d ≠ a →
        ∃ t, exec i s = .next t ∧ WritesSpectrum binary32 s t dq (lane (dq, aq, st.toNat)))
      ∧ (st.toNat = 0 ∨ s.logn.val < st.toNat → ∃ t, exec i s = .next t ∧ AbandonedWith s t 3)
      ∧ (1 ≤ st.toNat → st.toNat ≤ s.logn.val → d = a → ∃ t, exec i s = .next t ∧ AbandonedWith s t 5) :=
  ⟨fun hpos hle hne => exists_writesSpectrum hexec (operandsStage_ok hd ha hs hpos hle hne),
    fun hstage => exists_abandonedWith hexec (operandsStage_stage hd ha hs hstage),
    fun hpos hle heq => exists_abandonedWith hexec (operandsStage_alias hd ha hs hpos hle heq)⟩

end

/-! ## The obligations -/

/-- Settles O32: each permute is one dispatch, its lanes a read through the table. -/
theorem bitReversalPermutes : Obligations.BitReversalPermutes :=
  ⟨fun d a s => ⟨rfl, fun _ _ hd ha hs => gather_writes_or_aliases hd ha hs (exec_brevRow d a s),
      decodeOnlyErrors_of_checks (exec_brevRow d a s) operandsGather_illcmd operandsGather_state⟩,
    fun d a s => ⟨rfl, fun _ _ hd ha hs => gather_writes_or_aliases hd ha hs (exec_brevCol d a s),
      decodeOnlyErrors_of_checks (exec_brevCol d a s) operandsGather_illcmd operandsGather_state⟩⟩

/-- Settles O33: each pass is one dispatch, its lanes the two halves of `butterfly` along the axis. -/
theorem butterflyPasses : Obligations.ButterflyPasses :=
  ⟨fun d a st s => ⟨rfl, fun _ _ hd ha hs => pass_writes_or_fails hd ha hs (exec_bflyRow d a st s),
      decodeOnlyErrors_of_checks (exec_bflyRow d a st s) operandsStage_illcmd operandsStage_state⟩,
    fun d a st s => ⟨rfl, fun _ _ hd ha hs => pass_writes_or_fails hd ha hs (exec_bflyCol d a st s),
      decodeOnlyErrors_of_checks (exec_bflyCol d a st s) operandsStage_illcmd operandsStage_state⟩⟩

end Sys2Proof.Machine
end

section
/-! FFT.FWD and FFT.INV command by command (O34, O35). A host that issues what a transform dispatches differs from it in two
fields only: it keeps `PP`, which the transform flips, and every command ends with `BUSY = 0`. `State.issued` is that
simulation; each dispatch has a lemma that its command, from the issued state, gives the issued state of the dispatch. -/

namespace Sys2Proof.Machine

/-! ## Runs of commands -/

theorem runCommands_cons {i : Instr} {l : List Instr} {s t : State} {o : Host.Outcome State Fault Refusal}
    (h : exec i s = .next t) (hl : runCommands l t = o) : runCommands (i :: l) s = o := by
  simp only [runCommands, h, hl]

theorem runCommands_append {l l' : List Instr} {s t : State} {o : Host.Outcome State Fault Refusal}
    (h : runCommands l s = .next t) (hl' : runCommands l' t = o) : runCommands (l ++ l') s = o := by
  induction l generalizing s with
  | nil => cases h; exact hl'
  | cons i l ih =>
    cases hi : exec i s with
    | next u =>
      rw [runCommands_cons hi rfl] at h
      exact runCommands_cons hi (ih h)
    | fault e => simp [runCommands, hi] at h
    | refused e => simp [runCommands, hi] at h

/-! ## The state of a host that issues a transform's dispatches as commands -/

/-- `t`, reached inside a transform, as it is when the dispatches were issued as commands from a state of parity `p`. -/
def State.issued {α ω : Type} (p : Bool) (t : State α ω) : State α ω := { t with pp := p, busy := false }

section
variable {α ω : Type} {t : State α ω} {p : Bool}

theorem State.issued_session_ne (h : t.session ≠ .uninitialized) : (t.issued p).session ≠ .uninitialized := h

/-- The transform itself ends with the parity 0 (R169 of 41). -/
theorem State.issued_withParity (h : t.pp = false) : { t.issued p with pp := false } = t.complete := by
  rw [← h]; rfl

end

/-! ## The element-wise dispatches of the macros as commands -/

section
variable {t : State} {p : Bool} (hs : t.session ≠ .uninitialized)
include hs

theorem exec_center_issued : exec (.center 0x40 0x40) (t.issued p) = .next ((t.center binary32 .w0 .w0).issued p) := by
  rw [exec_center, operandsSS_ok (dq := .w0) (aq := .w0) rfl rfl (State.issued_session_ne hs)]; rfl

theorem exec_conj_issued : exec (.conj 0x40 0x40) (t.issued p) = .next ((t.conj binary32 .w0 .w0).issued p) := by
  rw [exec_conj, operandsSS_ok (dq := .w0) (aq := .w0) rfl rfl (State.issued_session_ne hs)]; rfl

theorem exec_scale_issued : exec (.scale 0x40 0x40) (t.issued p) = .next ((t.scale binary32 .w0 .w0).issued p) := by
  rw [exec_scale, operandsSS_ok (dq := .w0) (aq := .w0) rfl rfl (State.issued_session_ne hs)]; rfl

theorem exec_copyS_issued {d : Byte} {dq : Spectrum} (hd : spectrumOf d = some dq) :
    exec (.copyS d 0x40) (t.issued p) = .next ((t.copyS binary32 dq .w0).issued p) := by
  rw [exec_copyS, operandsSS_ok (aq := .w0) hd rfl (State.issued_session_ne hs)]; rfl

theorem exec_toReal_issued {d : Byte} {dp : Plane} (hd : planeOf d = some dp) :
    exec (.toReal d 0x40) (t.issued p) = .next (((t.toReal binary32 dp .w0).planeTouched dp).issued p) := by
  rw [exec_toReal, operandsPS_ok (aq := .w0) hd rfl (State.issued_session_ne hs), State.planeTouched_eq]
  exact congrArg (fun u => Host.Outcome.next (State.complete u)) (State.planeTouched_eq _ dp)

theorem exec_widen_issued {a : Byte} {ap : Plane} (ha : planeOf a = some ap) :
    exec (.widen 0x40 a) t = .next (State.issued t.pp { t.widen binary32 .w0 ap with pp := false }) := by
  rw [exec_widen, operandsSP_ok (dq := .w0) rfl ha hs]; rfl

theorem exec_loadConj_issued {a : Byte} {aq : Spectrum} (ha : spectrumOf a = some aq) :
    exec (.conj 0x40 a) t = .next ((t.loadConj binary32 aq).issued t.pp) := by
  rw [exec_conj, operandsSS_ok (dq := .w0) rfl ha hs]; rfl

/-- The first two commands of FFT.FWD (R170 of 41). -/
theorem runCommands_loadCentred {a : Byte} {ap : Plane} (ha : planeOf a = some ap) :
    runCommands [.widen 0x40 a, .center 0x40 0x40] t = .next ((t.loadCentred binary32 ap).issued t.pp) :=
  runCommands_cons (exec_widen_issued hs ha) (runCommands_cons (exec_center_issued hs) rfl)

/-- The last four commands of FFT.INV (R172 of 41). -/
theorem runCommands_storeReal {d : Byte} {dp : Plane} (hd : planeOf d = some dp) :
    runCommands [.conj 0x40 0x40, .scale 0x40 0x40, .center 0x40 0x40, .toReal d 0x40] (t.issued p)
      = .next (((t.storeReal binary32 dp).planeTouched dp).issued p) := by
  have hcentred :
      (((t.conj binary32 .w0 .w0).scale binary32 .w0 .w0).center binary32 .w0 .w0).session ≠ .uninitialized := hs
  exact runCommands_cons (exec_conj_issued hs) (runCommands_cons (exec_scale_issued hs)
    (runCommands_cons (exec_center_issued hs) (runCommands_cons (exec_toReal_issued hcentred hd) rfl)))

end

/-! ## The permute and the passes along an axis -/

section
variable {α ω : Type} {M : NumSystem α ω} (ax : Axis) (j : Nat) (t : State α ω)

theorem OnlyBuffers.refl : OnlyBuffers t t := ⟨rfl⟩

theorem OnlyBuffers.logn {s t : State α ω} (h : OnlyBuffers s t) : t.logn = s.logn := (congrArg State.logn h.rest :)

theorem Axis.pp_passes : (ax.passes M j t).pp = (!t.pp ^^ decide (j % 2 = 1)) := State.pp_passes _ _ j

theorem Axis.ustep_passes : (ax.passes M j t).ustep = t.ustep + (j + 1) := by
  induction j with
  | zero => cases ax <;> rfl
  | succ j ih =>
    have hpass : (ax.passes M (j + 1) t).ustep = (ax.passes M j t).ustep + 1 := by cases ax <;> rfl
    rw [hpass, ih, Nat.add_assoc]

theorem Axis.planes_passes : (ax.passes M j t).planes = t.planes :=
  State.passes_induction (P := fun u => u.planes = t.planes) (fun _ _ hu => by cases ax <;> exact hu) j _
    (by cases ax <;> rfl)

theorem State.ustep_rowsAndColumns : (t.rowsAndColumns M).ustep = t.ustep + (2 + 2 * t.logn.val) := by
  rw [State.rowsAndColumns_eq_passes, Axis.ustep_passes, Axis.ustep_passes]
  omega

theorem State.planes_rowsAndColumns : (t.rowsAndColumns M).planes = t.planes := by
  rw [State.rowsAndColumns_eq_passes, Axis.planes_passes, Axis.planes_passes]

end

/-! ## The same as commands -/

/-- The work buffer's identifier after `f` flips. -/
theorem spectrumOf_workByte (f : Nat) : spectrumOf (workByte f) = some (workBuffer (decide (f % 2 = 1))) := by
  rcases Nat.mod_two_eq_zero_or_one f with h | h <;> simp only [workByte, h] <;> rfl

theorem workByte_succ_ne (f : Nat) : workByte (f + 1) ≠ workByte f := by
  rcases Nat.mod_two_eq_zero_or_one f with h | h <;> simp [workByte, h, Nat.add_mod]

theorem decide_odd_succ (f : Nat) : decide ((f + 1) % 2 = 1) = !decide (f % 2 = 1) := by
  rw [← decide_not, decide_eq_decide]; omega

theorem decide_odd_add (f j : Nat) : decide ((f + j) % 2 = 1) = (decide (f % 2 = 1) ^^ decide (j % 2 = 1)) := by
  induction j with
  | zero => simp
  | succ j ih => rw [← Nat.add_assoc, decide_odd_succ, decide_odd_succ, ih, Bool.xor_not]

/-- BREV.ROW or BREV.COL. -/
def Axis.permuteCommand : Axis → Byte → Byte → Instr
  | .row => .brevRow
  | .col => .brevCol

/-- BFLY.ROW or BFLY.COL. -/
def Axis.passCommand : Axis → Byte → Byte → Byte → Instr
  | .row => .bflyRow
  | .col => .bflyCol

/-- The permute and the first `j` passes along an axis as commands, after `f` flips of the parity. -/
def Axis.commands (ax : Axis) (f j : Nat) : List Instr :=
  ax.permuteCommand (workByte (f + 1)) (workByte f) ::
    (List.range j).map fun k =>
      ax.passCommand (workByte (f + k + 2)) (workByte (f + k + 1)) (BitVec.ofNat 8 (k + 1))

theorem Axis.commands_succ (ax : Axis) (f j : Nat) :
    ax.commands f (j + 1) = ax.commands f j
      ++ [ax.passCommand (workByte (f + j + 2)) (workByte (f + j + 1)) (BitVec.ofNat 8 (j + 1))] := by
  simp only [Axis.commands, List.range_succ, List.map_append, List.map_cons, List.map_nil, List.cons_append]

/-- The commands of rows and columns in sequence (R170, R172 of 41). -/
theorem passCommands_eq (n : Nat) : passCommands n = Axis.row.commands 0 n ++ Axis.col.commands (n + 1) n := by
  simp only [passCommands, Axis.commands, Axis.permuteCommand, Axis.passCommand, Nat.zero_add, List.cons_append,
    List.nil_append, List.append_assoc, Nat.add_right_comm n 1, Nat.add_assoc]

section
variable {t : State} {p : Bool} {f : Nat} (hs : t.session ≠ .uninitialized) (hpp : t.pp = decide (f % 2 = 1))
include hs hpp

theorem Axis.exec_permuteCommand (ax : Axis) :
    exec (ax.permuteCommand (workByte (f + 1)) (workByte f)) (t.issued p)
      = .next ((t.pingPong (ax.permute binary32)).issued p) := by
  have hchecks : operandsGather (workByte (f + 1)) (workByte f) (t.issued p)
      = .ok (workBuffer (!t.pp), workBuffer t.pp) := by
    rw [operandsGather_ok (spectrumOf_workByte (f + 1)) (spectrumOf_workByte f) (State.issued_session_ne hs)
      (workByte_succ_ne f), decide_odd_succ, hpp]
  cases ax with
  | row => exact (exec_brevRow _ _ _).trans (by rw [hchecks]; rfl)
  | col => exact (exec_brevCol _ _ _).trans (by rw [hchecks]; rfl)

theorem Axis.exec_passCommand (ax : Axis) {j : Nat} (hj : j < t.logn.val) :
    exec (ax.passCommand (workByte (f + 1)) (workByte f) (BitVec.ofNat 8 (j + 1))) (t.issued p)
      = .next ((t.pingPong fun d a => ax.pass binary32 d a (j + 1)).issued p) := by
  have hstage : (BitVec.ofNat 8 (j + 1)).toNat = j + 1 := by
    have := t.logn.isLt
    rw [BitVec.toNat_ofNat, Nat.mod_eq_of_lt (by omega)]
  have hchecks : operandsStage (workByte (f + 1)) (workByte f) (BitVec.ofNat 8 (j + 1)) (t.issued p)
      = .ok (workBuffer (!t.pp), workBuffer t.pp, j + 1) := by
    rw [operandsStage_ok (spectrumOf_workByte (f + 1)) (spectrumOf_workByte f) (State.issued_session_ne hs) (by omega)
      (hstage.trans_le hj) (workByte_succ_ne f), decide_odd_succ, hpp, hstage]
  cases ax with
  | row => exact (exec_bflyRow _ _ _ _).trans (by rw [hchecks]; rfl)
  | col => exact (exec_bflyCol _ _ _ _).trans (by rw [hchecks]; rfl)

/-- The permute and the first `j` passes along an axis, issued as commands. -/
theorem Axis.runCommands_commands (ax : Axis) {j : Nat} (hj : j ≤ t.logn.val) :
    runCommands (ax.commands f j) (t.issued p) = .next ((ax.passes binary32 j t).issued p) := by
  induction j with
  | zero => exact runCommands_cons (ax.exec_permuteCommand hs hpp) rfl
  | succ j ih =>
    have hbuffers : OnlyBuffers t (ax.passes binary32 j t) := (OnlyBuffers.refl t).axisPasses ax j
    have hparity : (ax.passes binary32 j t).pp = decide ((f + j + 1) % 2 = 1) := by
      rw [ax.pp_passes, hpp, decide_odd_succ, decide_odd_add, Bool.not_xor]
    rw [ax.commands_succ]
    exact runCommands_append (ih (Nat.le_of_succ_le hj))
      (runCommands_cons (ax.exec_passCommand (hbuffers.session.trans_ne hs) hparity (by rwa [hbuffers.logn])) rfl)

end

/-- Rows and columns, issued as commands from the parity 0. -/
theorem runCommands_passCommands {t : State} {p : Bool} (hs : t.session ≠ .uninitialized) (hpp : t.pp = false) :
    runCommands (passCommands t.logn.val) (t.issued p) = .next ((t.rowsAndColumns binary32).issued p) := by
  have hrows : OnlyBuffers t (Axis.row.passes binary32 t.logn.val t) := (OnlyBuffers.refl t).axisPasses .row _
  have hparity : (Axis.row.passes binary32 t.logn.val t).pp = decide ((t.logn.val + 1) % 2 = 1) := by
    rw [Axis.pp_passes, hpp, decide_odd_succ, Bool.not_false, Bool.true_xor]
  rw [passCommands_eq, State.rowsAndColumns_eq_passes]
  exact runCommands_append (Axis.row.runCommands_commands (f := 0) hs hpp le_rfl)
    (Axis.col.runCommands_commands (hrows.session.trans_ne hs) hparity (by rw [hrows.logn]))

/-! ## The macros -/

section
variable {α ω : Type} {M : NumSystem α ω} (s : State α ω)

theorem State.pp_fftForward (d : Spectrum) (a : Plane) : (s.fftForward M d a).pp = false :=
  State.pp_rowsAndColumns (s.loadCentred M a)

theorem State.planes_fftForward (d : Spectrum) (a : Plane) : (s.fftForward M d a).planes = s.planes :=
  State.planes_rowsAndColumns (s.loadCentred M a)

theorem State.ustep_fftForward (d : Spectrum) (a : Plane) :
    (s.fftForward M d a).ustep = s.ustep + (5 + 2 * s.logn.val) := by
  have hpasses : ((s.loadCentred M a).rowsAndColumns M).ustep = s.ustep + 2 + (2 + 2 * s.logn.val) :=
    State.ustep_rowsAndColumns (s.loadCentred M a)
  rw [State.fftForward_eq, State.copyS, State.dispatchS_ustep, hpasses]
  omega

theorem State.pp_fftInverse (d : Plane) (a : Spectrum) : (s.fftInverse M d a).pp = false :=
  State.pp_rowsAndColumns (s.loadConj M a)

theorem State.ustep_storeReal (d : Plane) : (s.storeReal M d).ustep = s.ustep + 4 := rfl

theorem State.ustep_fftInverse (d : Plane) (a : Spectrum) :
    (s.fftInverse M d a).ustep = s.ustep + (7 + 2 * s.logn.val) := by
  have hpasses : ((s.loadConj M a).rowsAndColumns M).ustep = s.ustep + 1 + (2 + 2 * s.logn.val) :=
    State.ustep_rowsAndColumns (s.loadConj M a)
  rw [State.fftInverse_eq, State.ustep_storeReal, hpasses]
  omega

end

section
variable {d a : Byte} {s : State} (hs : s.session ≠ .uninitialized)
include hs

/-- The expansion of FFT.FWD, issued as commands (R170 of 41). -/
theorem runCommands_forwardCommands {dq : Spectrum} {ap : Plane} (hd : spectrumOf d = some dq) (ha : planeOf a = some ap) :
    runCommands (forwardCommands s.logn.val d a) s = .next ((s.fftForward binary32 dq ap).issued s.pp) := by
  have hload : (s.loadCentred binary32 ap).session ≠ .uninitialized := hs
  have hbuffers := (OnlyBuffers.refl (s.loadCentred binary32 ap)).rowsAndColumns (M := binary32)
  rw [forwardCommands, State.fftForward_eq, State.pp_rowsAndColumns]
  exact runCommands_append (runCommands_append (runCommands_loadCentred hs ha) (runCommands_passCommands hload rfl))
    (runCommands_cons (exec_copyS_issued (hbuffers.session.trans_ne hload) hd) rfl)

/-- The expansion of FFT.INV, issued as commands (R172 of 41). -/
theorem runCommands_inverseCommands {dp : Plane} {aq : Spectrum} (hd : planeOf d = some dp) (ha : spectrumOf a = some aq) :
    runCommands (inverseCommands s.logn.val d a) s
      = .next (((s.fftInverse binary32 dp aq).planeTouched dp).issued s.pp) := by
  have hload : (s.loadConj binary32 aq).session ≠ .uninitialized := hs
  have hbuffers := (OnlyBuffers.refl (s.loadConj binary32 aq)).rowsAndColumns (M := binary32)
  rw [inverseCommands, State.fftInverse_eq]
  exact runCommands_append (runCommands_append (runCommands_cons (exec_loadConj_issued hs ha) rfl)
    (runCommands_passCommands hload rfl)) (runCommands_storeReal (hbuffers.session.trans_ne hload) hd)

end

theorem exec_fftFwd (d a : Byte) (s : State) : exec (.fftFwd d a) s = s.finish (operandsSP d a s >>= fun x =>
    .ok (s.fftForward binary32 x.1 x.2)) := rfl

theorem exec_fftInv (d a : Byte) (s : State) : exec (.fftInv d a) s = s.finish (operandsPS d a s >>= fun x =>
    .ok ((s.fftInverse binary32 x.1 x.2).planeTouched x.1)) := rfl

/-! ## The obligations -/

/-- Settles O34: the host's run is the transform's, dispatch by dispatch, and the transform's parity ends at 0. -/
theorem fftFwdIsItsExpansion : Obligations.FftFwdIsItsExpansion := by
  refine fun d a s => ⟨rfl, fun dq ap hd ha hs => ⟨_, runCommands_forwardCommands hs hd ha, ?_,
    State.ustep_fftForward s dq ap, State.planes_fftForward s dq ap⟩,
    decodeOnlyErrors_of_checks (exec_fftFwd d a s) operandsSP_illcmd operandsSP_state⟩
  rw [exec_eq_execOver, execOver_fftFwd hs hd ha, State.issued_withParity (State.pp_fftForward s dq ap)]

/-- Settles O35: as O34; R231 of 43 touches neither the parity nor the count. -/
theorem fftInvIsItsExpansion : Obligations.FftInvIsItsExpansion := by
  refine fun d a s => ⟨rfl, fun dp aq hd ha hs => ⟨_, runCommands_inverseCommands hs hd ha, ?_,
    (State.planeTouched_ustep _ dp).trans (State.ustep_fftInverse s dp aq)⟩,
    decodeOnlyErrors_of_checks (exec_fftInv d a s) operandsPS_illcmd operandsPS_state⟩
  have hpp := (State.planeTouched_pp (s.fftInverse binary32 dp aq) dp).trans (State.pp_fftInverse s dp aq)
  rw [exec_eq_execOver, execOver_fftInv hs hd ha, State.issued_withParity hpp]

end Sys2Proof.Machine
end

section
/-! The transform over the reals (O57, O58, O59). What the machine's passes and macros compute is said in
`toComplex_workAt_rowsAndColumns`, `toComplex_specAt_fftForward` and `planeAt_fftInverse`; here the properties that R173 of 41
gives of the centred transform, and the sum of R172. -/

namespace Sys2Proof.Machine

/-! ## Waves -/

theorem transform2_eq_sum_wave (n : Nat) (a : Nat → Nat → ℂ) (u v : Nat) :
    transform2 n a u v = ∑ y ∈ Finset.range n, ∑ x ∈ Finset.range n, a x y * wave ((u * x + v * y) / n) := rfl

theorem wave_neg (q : ℂ) : wave (-q) = Complex.exp (2 * Real.pi * Complex.I * q) := by
  rw [wave]; ring_nf

theorem norm_wave_ofReal (q : ℝ) : ‖wave q‖ = 1 := by
  rw [wave, show (-2 * Real.pi * Complex.I * q : ℂ) = ((-2 * Real.pi * q : ℝ) : ℂ) * Complex.I by push_cast; ring,
    Complex.norm_exp_ofReal_mul_I]

/-- Frequencies that add up to an integer are each other's inverses. -/
theorem wave_neg_of_add_eq_natCast {p q : ℂ} {k : Nat} (h : p + q = k) : wave (-p) = wave q := by
  calc wave (-p) = wave (-p) * wave k := by rw [wave_natCast, mul_one]
    _ = wave (-p + (p + q)) := by rw [wave_add, h]
    _ = wave q := by rw [neg_add_cancel_left]

/-- The frequency of half a turn per step alternates the sign. -/
theorem wave_half_mul (k : Nat) : wave (k * (1 / 2)) = (-1) ^ k := by
  induction k with
  | zero => simpa using wave_natCast 0
  | succ k ih => rw [Nat.cast_succ, add_mul, one_mul, wave_add, ih, wave_half, pow_succ]

/-! ## The centred transform of a plane (R173 of 41) -/

section
variable {n : Nat} (p : Nat → Nat → ℝ)

/-- The transform of a plane of reals after CENTER (R135 of 40, R170 of 41). -/
noncomputable def centredTransform (n : Nat) (p : Nat → Nat → ℝ) (u v : Nat) : ℂ :=
  transform2 n (fun x y => (p x y : ℂ) * (-1) ^ (x + y)) u v

/-- R173 (a): the centre of the spectrum is the zero frequency. -/
theorem centredTransform_centre (heven : n % 2 = 0) (hpos : 0 < n) :
    centredTransform n p (n / 2) (n / 2) = ∑ y ∈ Finset.range n, ∑ x ∈ Finset.range n, (p x y : ℂ) := by
  obtain ⟨h, rfl⟩ := Nat.dvd_of_mod_eq_zero heven
  have hh : (h : ℂ) ≠ 0 := Nat.cast_ne_zero.mpr (by omega)
  have hangle (x y : Nat) : (((h : ℂ) * x + h * y) / (2 * h : Nat)) = (x + y : Nat) * (1 / 2) := by
    push_cast; field_simp
  rw [centredTransform, transform2_eq_sum_wave, Nat.mul_div_cancel_left h two_pos]
  refine Finset.sum_congr rfl fun y _ => Finset.sum_congr rfl fun x _ => ?_
  rw [hangle, wave_half_mul, mul_assoc, ← mul_pow, neg_one_mul, neg_neg, one_pow, mul_one]

/-- R173 (c): the transform of a single point. -/
theorem centredTransform_point {x₀ y₀ : Nat} (hx₀ : x₀ < n) (hy₀ : y₀ < n)
    (hp : ∀ x y, x < n → y < n → p x y = if x = x₀ ∧ y = y₀ then 1 else 0) (u v : Nat) :
    centredTransform n p u v = (-1) ^ (x₀ + y₀) * wave ((u * x₀ + v * y₀) / n) := by
  rw [centredTransform, transform2_eq_sum_wave]
  rw [Finset.sum_eq_single_of_mem y₀ (Finset.mem_range.mpr hy₀), Finset.sum_eq_single_of_mem x₀ (Finset.mem_range.mpr hx₀)]
  · rw [hp x₀ y₀ hx₀ hy₀, if_pos ⟨rfl, rfl⟩, Complex.ofReal_one, one_mul]
  · intro x hx hne
    rw [hp x y₀ (Finset.mem_range.mp hx) hy₀, if_neg (fun h => hne h.1), Complex.ofReal_zero, zero_mul, zero_mul]
  · intro y hy hne
    refine Finset.sum_eq_zero fun x hx => ?_
    rw [hp x y (Finset.mem_range.mp hx) (Finset.mem_range.mp hy), if_neg (fun h => hne h.2), Complex.ofReal_zero, zero_mul,
      zero_mul]

/-- R173 (d): the spectrum of a plane of reals is conjugate symmetric. -/
theorem conj_centredTransform (hpos : 0 < n) {u v u' v' ku kv : Nat} (hu : u + u' = n * ku) (hv : v + v' = n * kv) :
    (starRingEnd ℂ) (centredTransform n p u' v') = centredTransform n p u v := by
  have hn : (n : ℂ) ≠ 0 := Nat.cast_ne_zero.mpr hpos.ne'
  have hangle (x y : Nat) : ((u' * x + v' * y) / n : ℂ) + (u * x + v * y) / n = (ku * x + kv * y : Nat) := by
    have hu' : (u + u' : ℂ) = n * ku := by exact_mod_cast hu
    have hv' : (v + v' : ℂ) = n * kv := by exact_mod_cast hv
    push_cast
    field_simp
    linear_combination (x : ℂ) * hu' + (y : ℂ) * hv'
  simp only [centredTransform, transform2_eq_sum_wave, map_sum]
  refine Finset.sum_congr rfl fun y _ => Finset.sum_congr rfl fun x _ => ?_
  simp only [map_mul, map_pow, map_neg, map_one, Complex.conj_ofReal, conj_wave, map_div₀, map_add, map_natCast]
  rw [wave_neg_of_add_eq_natCast (hangle x y)]

/-- A frequency and its opposite, as R173 (d) writes it, add up to a multiple of `n`. -/
theorem add_opposite {u : Nat} (hu : u < n) : ∃ k, u + (n - u) % n = n * k := by
  rcases Nat.eq_zero_or_pos u with rfl | hpos
  · exact ⟨0, by simp⟩
  · exact ⟨1, by rw [Nat.mod_eq_of_lt (by omega)]; omega⟩

end

/-! ## The sum of the inverse (R172 of 41) -/

/-- Conjugate, transform, conjugate: the sum with the inverse factors. -/
theorem conj_transform2_conj (n : Nat) (b : Nat → Nat → ℂ) (x y : Nat) :
    (starRingEnd ℂ) (transform2 n (fun u v => (starRingEnd ℂ) (b u v)) x y)
      = ∑ v ∈ Finset.range n, ∑ u ∈ Finset.range n, b u v * Complex.exp (2 * Real.pi * Complex.I * ((u * x + v * y) / n)) := by
  simp only [transform2_eq_sum_wave, map_sum]
  refine Finset.sum_congr rfl fun v _ => Finset.sum_congr rfl fun u _ => ?_
  simp only [map_mul, Complex.conj_conj, conj_wave, map_div₀, map_add, map_natCast]
  rw [wave_neg, mul_comm (x : ℂ), mul_comm (y : ℂ)]

/-! ## The obligations -/

/-- Settles O57: R166 along each axis, and along both in sequence. -/
theorem passesComputeTransform : Obligations.PassesComputeTransform := by
  refine ⟨fun n z u hu => ?_, fun M s hM hs hT u v hu hv => ?_⟩
  · rw [toComplex_linePasses n z hu, transform]
    push_cast
    rfl
  · have h := hT.openSession hs
    exact ⟨Axis.toComplex_element_passes hM.ops h .row hu hv, Axis.toComplex_element_passes hM.ops h .col hv hu,
      toComplex_workAt_rowsAndColumns hM.ops h hu hv⟩

/-- Settles O58: FFT.FWD leaves the centred transform of the plane, which has the properties of R173. -/
theorem forwardTransformOverReals : Obligations.ForwardTransformOverReals := by
  intro M s d a dq ap hM hd ha hs hT
  have h := hT.openSession hs
  obtain ⟨hlogn, -⟩ := hT hs
  have heven : s.n % 2 = 0 := Nat.mod_eq_zero_of_dvd (dvd_pow_self 2 (by omega))
  have hhalf : s.n / 2 < s.n := Nat.div_lt_self s.n_pos one_lt_two
  have htransform : ∀ u v, u < s.n → v < s.n →
      ((s.fftForward M dq ap).complete.specAt M dq u v).toComplex = centredTransform s.n (s.planeAt M ap) u v :=
    fun u v hu hv => toComplex_specAt_fftForward hM.ops h dq ap hu hv
  refine ⟨_, execOver_fftFwd hs hd ha, htransform, ?_, ?_, fun x₀ y₀ hx₀ hy₀ hp u v hu hv => ?_, fun u v hu hv => ?_⟩
  · exact (htransform _ _ hhalf hhalf).trans (centredTransform_centre _ heven s.n_pos)
  · simp only [← Complex.normSq_eq_norm_sq]
    exact sum_normSq_fftForward hM.ops h dq ap
  · have hpoint := (htransform u v hu hv).trans (centredTransform_point _ hx₀ hy₀ hp u v)
    refine ⟨hpoint, (congrArg norm hpoint).trans ?_⟩
    have hreal : ((u * x₀ + v * y₀) / s.n : ℂ) = ((u * x₀ + v * y₀) / s.n : ℝ) := by push_cast; rfl
    rw [norm_mul, norm_pow, norm_neg, norm_one, one_pow, one_mul, hreal, norm_wave_ofReal]
  · obtain ⟨ku, hku⟩ := add_opposite hu
    obtain ⟨kv, hkv⟩ := add_opposite hv
    exact (htransform u v hu hv).trans ((conj_centredTransform _ s.n_pos hku hkv).symm.trans
      (congrArg _ (htransform _ _ (Nat.mod_lt _ s.n_pos) (Nat.mod_lt _ s.n_pos)).symm))

/-- Settles O59: the sum of R172, and the inversion formula on the centred transform FFT.FWD leaves. -/
theorem inverseTransformOverReals : Obligations.InverseTransformOverReals := by
  refine ⟨fun M s d a dp aq hM hd ha hs hT => ⟨_, execOver_fftInv hs hd ha, fun x y hx hy => ?_⟩,
    fun M s q d a sq dp ap hM hq hd ha hs hT => ?_⟩
  · rw [State.planeAt_planeTouched_complete, planeAt_fftInverse hM.ops (hT.openSession hs) dp aq hx hy, conj_transform2_conj]
    congr 1
    push_cast
    ring
  · have h := hT.openSession hs
    have ht := (h.fftForward sq ap).complete.self
    have hn : (s.fftForward M sq ap).complete.n = s.n := (h.fftForward sq ap).complete.n
    refine ⟨_, _, execOver_fftFwd hs hq ha, execOver_fftInv ht.session hd hq, fun x y hx hy => ?_⟩
    rw [State.planeAt_planeTouched_complete]
    refine planeAt_fftInverse_of_transform hM.ops ht dp sq (s.planeAt M ap) (fun u v hu hv => ?_) (by rwa [hn]) (by rwa [hn])
    rw [hn] at hu hv ⊢
    exact toComplex_specAt_fftForward hM.ops h sq ap hu hv

end Sys2Proof.Machine
end

section
/-! The phase amplifier of 42_phase_amplifier (O36, O52, O53, O54, O56): the smoothstep, the gate, the phase wrap and the
magnitude of an amplified bin over the reals, and PAMP as a command. -/

namespace Sys2Proof.Machine

/-! ## The smoothstep over the reals (R192 of 42) -/

theorem smoothstep_of_between {t : ℝ} (h0 : 0 < t) (h1 : t < 1) :
    smoothstep realNumerics t = 3 * t * t - 2 * t * t * t := by
  simp [smoothstep, h0, h1]

/-- The three pieces are one cubic of the argument clamped to `[0, 1]`. -/
theorem smoothstep_eq_clamp (t : ℝ) :
    smoothstep realNumerics t = 3 * max 0 (min 1 t) ^ 2 - 2 * max 0 (min 1 t) ^ 3 := by
  rcases le_or_gt t 0 with h0 | h0
  · rw [smoothstep_of_nonpos h0, max_eq_left (min_le_of_right_le h0)]
    norm_num
  · rw [max_eq_right (le_min zero_le_one h0.le)]
    rcases lt_or_ge t 1 with h1 | h1
    · rw [smoothstep_of_between h0 h1, min_eq_right h1.le]
      ring
    · rw [smoothstep_of_one_le h1, min_eq_left h1]
      norm_num

/-- On `[0, 1]` the cubic is non-decreasing: its increment is a product of factors that are not negative there. -/
theorem cubic_mono {x y : ℝ} (hx : 0 ≤ x) (hxy : x ≤ y) (hy : y ≤ 1) :
    3 * x ^ 2 - 2 * x ^ 3 ≤ 3 * y ^ 2 - 2 * y ^ 3 := by
  have hfactor : 0 ≤ 2 * (x * (1 - x)) + 2 * (y * (1 - y)) + x * (1 - y) + y * (1 - x) := by
    have hy0 : 0 ≤ y := hx.trans hxy
    have hx1 : 0 ≤ 1 - x := sub_nonneg.mpr (hxy.trans hy)
    have hy1 : 0 ≤ 1 - y := sub_nonneg.mpr hy
    positivity
  refine sub_nonneg.mp ((mul_nonneg (sub_nonneg.mpr hxy) hfactor).trans_eq ?_)
  ring

theorem smoothstep_mono {t u : ℝ} (h : t ≤ u) : smoothstep realNumerics t ≤ smoothstep realNumerics u := by
  rw [smoothstep_eq_clamp, smoothstep_eq_clamp]
  exact cubic_mono (le_max_left _ _) (max_le_max_left 0 (min_le_min_left 1 h)) (max_le zero_le_one (min_le_left _ _))

theorem smoothstep_nonneg (t : ℝ) : 0 ≤ smoothstep realNumerics t :=
  (smoothstep_of_nonpos (min_le_right t 0)).symm.le.trans (smoothstep_mono (min_le_left t 0))

theorem smoothstep_le_one (t : ℝ) : smoothstep realNumerics t ≤ 1 :=
  (smoothstep_mono (le_max_left t 1)).trans (smoothstep_of_one_le (le_max_right t 1)).le

/-- The cubic takes `c` and `1 - c` to values of sum 1, and the clamp of `1 - t` is 1 less that of `t`. -/
theorem smoothstep_add_reflected (t : ℝ) : smoothstep realNumerics t + smoothstep realNumerics (1 - t) = 1 := by
  have hclamp : max 0 (min 1 (1 - t)) = 1 - max 0 (min 1 t) := by grind
  rw [smoothstep_eq_clamp, smoothstep_eq_clamp, hclamp]
  ring

/-- Settles O52: the pieces are those of the definition, the rest is read off the clamped cubic. -/
theorem smoothstepShape : Obligations.SmoothstepShape := by
  refine ⟨fun _ => smoothstep_of_nonpos, fun _ => smoothstep_of_between, fun _ => smoothstep_of_one_le,
    fun _ _ => smoothstep_mono, ?_, smoothstep_add_reflected⟩
  rw [smoothstep_of_between (by norm_num) (by norm_num)]
  norm_num

/-! ## The gate over the reals (R193 of 42) -/

theorem gate_nonneg (lo hi steep f : ℝ) : 0 ≤ gate realNumerics lo hi steep f := by
  rw [gate_eq]
  exact mul_nonneg (smoothstep_nonneg _) (sub_nonneg.mpr (smoothstep_le_one _))

theorem gate_le_one (lo hi steep f : ℝ) : gate realNumerics lo hi steep f ≤ 1 := by
  rw [gate_eq]
  exact mul_le_one₀ (smoothstep_le_one _) (sub_nonneg.mpr (smoothstep_le_one _)) (sub_le_self 1 (smoothstep_nonneg _))

/-- Above the upper cutoff the gate is closed (R193 of 42). -/
theorem gate_of_hi_le {lo hi steep f : ℝ} (hw : 0 < (hi - lo) / (2 * steep)) (h : hi ≤ f) :
    gate realNumerics lo hi steep f = 0 := by
  rw [gate_eq, smoothstep_of_one_le (t := (f - (hi - _)) / _) ((one_le_div hw).mpr (by linarith)), sub_self, mul_zero]

/-- Settles O53: outside the cutoffs a factor of the gate is 0, between the ramps both are 1. -/
theorem gateIsBandPass : Obligations.GateIsBandPass := by
  refine ⟨fun lo hi steep f hlt hsteep => ?_, gate_of_le_lo (by norm_num) (by norm_num),
    gate_of_between_ramps (by norm_num) (by norm_num) (by norm_num)⟩
  have hw : 0 < (hi - lo) / (2 * steep) := div_pos (sub_pos.mpr hlt) (by linarith)
  exact ⟨gate_eq lo hi steep f, gate_nonneg lo hi steep f, gate_le_one lo hi steep f,
    fun h => h.elim (gate_of_le_lo hw) (gate_of_hi_le hw), fun _ => gate_of_between_ramps hw⟩

/-! ## The phase wrap over the reals (R194 of 42) -/

theorem wrapPhase_eq (t : ℝ) : wrapPhase realNumerics t
    = if Real.pi < t then t - 2 * Real.pi else if -Real.pi < t then t else t + 2 * Real.pi := by
  simp [wrapPhase]

/-- Settles O54: each of the three branches lands in `(-pi, pi]`. -/
theorem wrappedPhaseInRange : Obligations.WrappedPhaseInRange := by
  intro t hlow hhigh
  rw [wrapPhase_eq]
  split_ifs with habove hbelow
  · exact ⟨by linarith, by linarith, .inr (.inl rfl)⟩
  · exact ⟨hbelow, not_lt.mp habove, .inl rfl⟩
  · exact ⟨by linarith, by linarith [not_lt.mp hbelow], .inr (.inr rfl)⟩

/-! ## The amplified bin over the reals (R200, R203 of 42) -/

theorem mag_eq_norm (c : Cplx ℝ) : realNumerics.mag c = ‖c.toComplex‖ := (Complex.norm_def c.toComplex).symm

/-- Step 5 of R200 in polar form: magnitude `|c| * mscale`, argument the current phase plus the amplified delta. -/
theorem toComplex_ampBin (P : Params ℝ) (f grad : ℝ) (c p : Cplx ℝ) :
    (ampBin realNumerics P f grad c p).toComplex
      = ((‖c.toComplex‖ * P.mscale : ℝ) : ℂ)
        * Complex.exp ((realNumerics.arg c + ampDelta realNumerics P f grad c p : ℝ) * Complex.I) := by
  rw [← mag_eq_norm]
  apply Complex.ext
  · rw [Complex.re_ofReal_mul, Complex.exp_ofReal_mul_I_re]
    rfl
  · rw [Complex.im_ofReal_mul, Complex.exp_ofReal_mul_I_im]
    rfl

/-- Settles O56: a rotation keeps the magnitude, and a bin that did not move is not rotated (R201). -/
theorem amplifierKeepsMagnitude : Obligations.AmplifierKeepsMagnitude := by
  refine fun P f grad c p => ⟨?_, fun hedges => ampBin_self hedges f grad c⟩
  rw [toComplex_ampBin, norm_mul, Complex.norm_exp_ofReal_mul_I, mul_one, Complex.norm_real, norm_mul, norm_norm, mul_comm,
    Real.norm_eq_abs]

/-! ## PAMP as its checks and its dispatch (R200 of 42, R283 of 60) -/

theorem exec_pamp (d a b : Byte) (s : State) : exec (.pamp d a b) s = s.finish (operandsAmp d a b s >>= fun x =>
    .ok (s.dispatchS x.1 fun u v => ampBin numerics s.snap (radialFrequency numerics s.n u v) (s.gradMag binary32 x.2.1 u v)
      (s.specAt binary32 x.2.1 u v) (s.specAt binary32 x.2.2 u v))) := rfl

/-- Settles O36: one dispatch, its lanes the five steps of R200, unless the destination is a source. -/
theorem pampRotatesBins : Obligations.PampRotatesBins :=
  fun d a b s => ⟨rfl,
    fun _ _ _ hd ha hb hs =>
      ⟨fun hda hdb => exists_writesSpectrum (exec_pamp d a b s) (operandsAmp_ok hd ha hb hs hda hdb),
        fun halias => exists_abandonedWith (exec_pamp d a b s) (operandsAmp_alias hd ha hb hs halias)⟩,
    decodeOnlyErrors_of_checks (exec_pamp d a b s) operandsAmp_illcmd operandsAmp_state⟩

end Sys2Proof.Machine
end

section
/-! The filter bank of 43_pyramid stays honest (O45): what the dispatches of the macros other than GENFILT keep is said once
(`MacroInvariant`), GENFILT writes the masks of its key level by level, and every other write to a mask clears `FBVALID`
(R231). -/

namespace Sys2Proof.Machine

variable {α ω : Type} {M : NumSystem α ω} {s t : State α ω}

/-! ## What the dispatches of the macros keep -/

theorem Axis.exists_permute_eq_dispatchS (ax : Axis) (d a : Spectrum) (s : State α ω) :
    ∃ lane, ax.permute M d a s = s.dispatchS d lane := by cases ax <;> (rw [Axis.permute]; exact ⟨_, rfl⟩)

theorem Axis.exists_pass_eq_dispatchS (ax : Axis) (d a : Spectrum) (k : Nat) (s : State α ω) :
    ∃ lane, ax.pass M d a k s = s.dispatchS d lane := by cases ax <;> (rw [Axis.pass]; exact ⟨_, rfl⟩)

/-- `P` is kept by every dispatch but those on a mask, and does not depend on `PP`. The transforms keep it, unless they write
a mask, and the decomposer and FRAME keep it when their refresh of the bank does. -/
structure MacroInvariant (P : State α ω → Prop) : Prop where
  dispatchS : ∀ {t : State α ω} (d : Spectrum) (lane : Nat → Nat → Cplx α), P t → P (t.dispatchS d lane)
  dispatchP : ∀ {t : State α ω} {d : Plane} (lane : Nat → Nat → α), (∀ i, d ≠ .mask i) → P t → P (t.dispatchP d lane)
  parity : ∀ {t : State α ω} (b : Bool), P t → P { t with pp := b }

namespace MacroInvariant

variable {P Q : State α ω → Prop}

theorem and (hP : MacroInvariant P) (hQ : MacroInvariant Q) : MacroInvariant fun t => P t ∧ Q t where
  dispatchS d lane := fun ⟨hp, hq⟩ => ⟨hP.dispatchS d lane hp, hQ.dispatchS d lane hq⟩
  dispatchP lane hd := fun ⟨hp, hq⟩ => ⟨hP.dispatchP lane hd hp, hQ.dispatchP lane hd hq⟩
  parity b := fun ⟨hp, hq⟩ => ⟨hP.parity b hp, hQ.parity b hq⟩

variable (hP : MacroInvariant P)
include hP

theorem axisPasses (ax : Axis) (j : Nat) (hs : P s) : P (ax.passes M j s) := by
  have hpermute : P (s.pingPong (ax.permute M)) := by
    obtain ⟨lane, hlane⟩ := ax.exists_permute_eq_dispatchS (M := M) (workBuffer (!s.pp)) (workBuffer s.pp) s
    rw [State.pingPong_eq, hlane]
    exact hP.parity _ (hP.dispatchS _ _ hs)
  have hpass (i : Nat) (u : State α ω) (hu : P u) : P (u.pingPong fun d a => ax.pass M d a (i + 1)) := by
    obtain ⟨lane, hlane⟩ := ax.exists_pass_eq_dispatchS (M := M) (workBuffer (!u.pp)) (workBuffer u.pp) (i + 1) u
    rw [State.pingPong_eq, hlane]
    exact hP.parity _ (hP.dispatchS _ _ hu)
  exact State.passes_induction hpass j _ hpermute

theorem rowsAndColumns (hs : P s) : P (s.rowsAndColumns M) := hP.axisPasses .col _ (hP.axisPasses .row _ hs)

theorem fftForward (d : Spectrum) (a : Plane) (hs : P s) : P (s.fftForward M d a) := by
  have hload : P (s.loadCentred M a) := by
    unfold State.loadCentred
    exact hP.dispatchS _ _ (hP.parity _ (hP.dispatchS _ _ hs))
  rw [State.fftForward_eq]
  exact hP.dispatchS _ _ (hP.rowsAndColumns hload)

theorem fftInverse {d : Plane} (hd : ∀ i, d ≠ .mask i) (a : Spectrum) (hs : P s) : P (s.fftInverse M d a) := by
  have hload : P (s.loadConj M a) := by
    unfold State.loadConj
    exact hP.parity _ (hP.dispatchS _ _ hs)
  rw [State.fftInverse_eq, State.storeReal]
  exact hP.dispatchP _ hd (hP.dispatchS _ _ (hP.dispatchS _ _ (hP.dispatchS _ _ (hP.rowsAndColumns hload))))

/-- The decomposer after its first step, the refresh of the bank (R229 of 43). -/
theorem decompose [DecidableEq α] (hbank : P (s.refreshBank M)) : P (s.decompose M) := by
  have hbands := State.forLevels_induction (P := P)
    (op := fun i u => (u.mulM M (.bcur (levelIndex i)) .scur (.mask (levelIndex i))).mulM M
      (.bprv (levelIndex i)) .sprv (.mask (levelIndex i)))
    (fun _ _ hu => hP.dispatchS _ _ (hP.dispatchS _ _ hu)) s.snap.levels _ hbank
  have hamp := State.forLevels_induction (P := P)
    (op := fun i u => u.amplify M (.bprc (levelIndex i)) (.bcur (levelIndex i)) (.bprv (levelIndex i)))
    (fun _ _ => hP.dispatchS _ _) s.snap.levels _ hbands
  exact State.forLevels_induction (P := P) (fun _ _ => hP.dispatchS _ _) s.snap.levels _ (hP.dispatchS .smod _ hamp)

theorem diagnose (hs : P s) : P (s.diagnose M) := by
  unfold State.diagnose
  split
  · exact hP.dispatchP _ nofun hs
  · split
    · exact hP.dispatchP _ nofun hs
    · exact hs

/-- FRAME's steps, given that a refresh of the bank keeps `P` too (R255 of 44). -/
theorem steadyFrame [DecidableEq α] (hbank : ∀ {u}, P u → P (u.refreshBank M)) (hs : P s) : P (s.steadyFrame M) := by
  have hspec := hP.fftForward (M := M) .sprv .lprev (hP.fftForward (M := M) .scur .lin hs)
  have hmod : P (if s.snap.pyr then ((s.fftForward M .scur .lin).fftForward M .sprv .lprev).decompose M
      else ((s.fftForward M .scur .lin).fftForward M .sprv .lprev).amplify M .smod .scur .sprv) := by
    split
    · exact hP.decompose (hbank hspec)
    · exact hP.dispatchS _ _ hspec
  exact hP.dispatchP _ nofun (hP.diagnose (hP.fftInverse (d := .lout) nofun .smod hmod))

end MacroInvariant

theorem macroInvariant_onlyBuffers (s : State α ω) : MacroInvariant (OnlyBuffers s) where
  dispatchS _ _ h := ⟨h.rest⟩
  dispatchP _ _ h := ⟨h.rest⟩
  parity _ h := ⟨h.rest⟩

theorem OnlyBuffers.snap (h : OnlyBuffers s t) : t.snap = s.snap := (congrArg State.snap h.rest :)

theorem OnlyBuffers.n (h : OnlyBuffers s t) : t.n = s.n := congrArg (2 ^ ·.val) h.logn

/-! ## The masks GENFILT writes (R228 of 43) -/

theorem levelIndex_injective {i j : Nat} (hi : i < 32) (hj : j < 32) (h : levelIndex i = levelIndex j) : i = j := by
  have hval : i % 32 = j % 32 := congrArg Fin.val h
  rwa [Nat.mod_eq_of_lt hi, Nat.mod_eq_of_lt hj] at hval

variable (M) in
/-- The first `k` GENMASK dispatches of GENFILT. -/
def State.bankMasks (k : Nat) (s : State α ω) : State α ω :=
  State.forLevels (fun i t => t.genMask M (.mask (levelIndex i)) i) k s

theorem State.bankMasks_succ (k : Nat) (s : State α ω) :
    s.bankMasks M (k + 1) = (s.bankMasks M k).genMask M (.mask (levelIndex k)) k := rfl

theorem State.genFilt_eq (s : State α ω) :
    s.genFilt M = { s.bankMasks M s.snap.levels with fbValid := true, fbKey := s.snapKey } := rfl

theorem onlyBuffers_bankMasks (k : Nat) (s : State α ω) : OnlyBuffers s (s.bankMasks M k) :=
  State.forLevels_induction (fun _ _ h => ⟨h.rest⟩) k s (OnlyBuffers.refl s)

/-- Mask `i` is written by the dispatch of level `i`, and by no other. -/
theorem State.planeAt_bankMasks (s : State α ω) {k : Nat} (hk : k ≤ 32) {i u v : Nat} (hi : i < k) (hu : u < s.n)
    (hv : v < s.n) :
    (s.bankMasks M k).planeAt M (.mask (levelIndex i)) u v
      = bandMask M.ops s.snap.levels s.snap.fmin s.snap.fmax i (radialFrequency M.ops s.n u v) := by
  induction k with
  | zero => exact absurd hi (Nat.not_lt_zero i)
  | succ k ih =>
    have hbuffers : OnlyBuffers s (s.bankMasks M k) := onlyBuffers_bankMasks k s
    rw [State.bankMasks_succ, State.genMask, State.planeAt_dispatchP M _ _ _ _ (by rwa [hbuffers.n]) (by rwa [hbuffers.n])]
    rcases Nat.lt_succ_iff_lt_or_eq.mp hi with hlt | rfl
    · have hne : levelIndex i ≠ levelIndex k := fun h => hlt.ne (levelIndex_injective (by omega) (by omega) h)
      rw [if_neg (fun h => hne (Plane.mask.inj h)), ih (by omega) hlt]
    · rw [if_pos rfl, hbuffers.snap, hbuffers.n]

/-! ## The bank under dispatches and writes (R231 of 43) -/

theorem bankHonest_of_invalid (h : s.fbValid = false) : BankHonest M s := fun hvalid => absurd (h.symm.trans hvalid) nofun

/-- The bank stays honest when its flag, its key and its masks stay, on the same canvas of the same session. -/
theorem BankHonest.of_masks (hs : BankHonest M s) (hsession : t.session = s.session) (hlogn : t.logn = s.logn)
    (hvalid : t.fbValid = s.fbValid) (hkey : t.fbKey = s.fbKey)
    (hmasks : ∀ i idx, validIndex idx → t.planeElem M (.mask i) idx = s.planeElem M (.mask i) idx) : BankHonest M t := by
  intro h
  obtain ⟨hopen, hlevels, hbank⟩ := hs (hvalid.symm.trans h)
  have hn : t.n = s.n := congrArg (2 ^ ·.val) hlogn
  rw [hsession, hkey, hn]
  refine ⟨hopen, hlevels, fun i hi u v hu hv => ?_⟩
  rw [State.planeAt, hn, hmasks _ _ (grid_valid hu hv)]
  exact hbank i hi u v hu hv

/-- A dispatch leaves the masks as they are when it writes a spectrum or another plane. -/
theorem macroInvariant_bankHonest : MacroInvariant (BankHonest M) where
  dispatchS _ _ hs := hs
  dispatchP {t d} lane hd hs := hs.of_masks rfl rfl rfl rfl fun i idx hidx => by
    rw [State.planeElem_dispatchP M t d lane _ idx hidx, if_neg (fun h => hd i h.1.symm)]
  parity _ hs := hs

/-- R231 of 43: what writes a plane need leave the bank honest only when the plane is no mask. -/
theorem bankHonest_planeTouched {d : Plane} (h : (∀ i, d ≠ .mask i) → BankHonest M s) : BankHonest M (s.planeTouched d) := by
  by_cases hd : ∀ i, d ≠ .mask i
  · rw [State.planeTouched_eq, decide_eq_true hd, Bool.and_true]
    exact h hd
  · rw [State.planeTouched_eq, decide_eq_false hd, Bool.and_false]
    exact bankHonest_of_invalid rfl

theorem BankHonest.writePlane (hs : BankHonest M s) {p : Plane} (hp : ∀ i, p ≠ .mask i) {idx : Nat} (hidx : validIndex idx)
    (v : α) : BankHonest M (s.writePlane p idx v) :=
  hs.of_masks rfl rfl rfl rfl fun i j hj => by
    rw [State.planeElem_writePlane M s p idx v _ j hidx hj, if_neg (fun h => hp i h.1.symm)]

/-- GENFILT makes the bank honest, whatever it was (R228, R231 of 43). -/
theorem bankHonest_genFilt (hs : s.session ≠ .uninitialized) (hlevels : s.snap.levels ≤ Config.pyrMax) :
    BankHonest M (s.genFilt M) := by
  have hbuffers : OnlyBuffers s (s.bankMasks M s.snap.levels) := onlyBuffers_bankMasks _ s
  have hn : (s.genFilt M).n = s.n := hbuffers.n
  refine fun _ => ⟨hbuffers.session.trans_ne hs, hlevels, fun i hi u v hu hv => ?_⟩
  rw [hn] at hu hv ⊢
  exact State.planeAt_bankMasks s (hlevels.trans Config.pyrMax_le) hi hu hv

/-! ## Commands -/

/-- INIT fails or starts a session (R252 of 44). -/
theorem Meaning.init_cases (h : Meaning.init M s = .next t) :
    (∃ e, t = s.failInit e) ∨ ∃ k, t = (s.startSession M k).complete := by
  unfold Meaning.init at h
  simp only at h
  split at h
  · cases h; exact .inl ⟨_, rfl⟩
  · split at h
    · cases h; exact .inl ⟨_, rfl⟩
    · cases h; exact .inr ⟨_, rfl⟩

/-- A command that checks its operands and then runs: what holds of an abandoned command and of every completed run. -/
theorem State.finish_bind_induction {β : Type} {r : Except CmdError β} {f : β → Except CmdError (State α ω)}
    {P : State α ω → Prop} (h : s.finish (r >>= f) = .next t) (habandon : ∀ e, P (s.abandon e))
    (hrun : ∀ x, r = .ok x → ∃ u, f x = .ok u ∧ P u.complete) : P t := by
  cases r with
  | error e => cases h; exact habandon e
  | ok x =>
    obtain ⟨u, hu, hcomplete⟩ := hrun x rfl
    have hnext : s.finish (f x) = .next t := h
    rw [hu] at hnext
    cases hnext
    exact hcomplete

section
variable [DecidableEq α]

/-- FRAME in `SteadyState` refreshes the bank from its own snapshot, and writes no mask otherwise (R229, R255). -/
theorem BankHonest.steadyFrame (hs : BankHonest M s) (hopen : s.session ≠ .uninitialized)
    (hlevels : s.snap.levels ≤ Config.pyrMax) : BankHonest M (s.steadyFrame M) := by
  have hinv : MacroInvariant fun t => OnlyBuffers s t ∧ BankHonest M t :=
    (macroInvariant_onlyBuffers s).and macroInvariant_bankHonest
  have hbank {u : State α ω} (hu : OnlyBuffers s u ∧ BankHonest M u) :
      OnlyBuffers s (u.refreshBank M) ∧ BankHonest M (u.refreshBank M) := by
    obtain ⟨hbuffers, hhonest⟩ := hu
    unfold State.refreshBank
    split
    · exact ⟨hbuffers, hhonest⟩
    · have hmasks : OnlyBuffers s (u.bankMasks M u.snap.levels) :=
        State.forLevels_induction (fun _ _ h => ⟨h.rest⟩) _ u hbuffers
      exact ⟨⟨hmasks.rest⟩, bankHonest_genFilt (hbuffers.session.trans_ne hopen) (hbuffers.snap ▸ hlevels)⟩
  exact (hinv.steadyFrame hbank ⟨OnlyBuffers.refl s, hs⟩).2

theorem BankHonest.frame (hs : BankHonest M s) (hlevels : s.snap.levels ≤ Config.pyrMax) (h : Meaning.frame M s = .next t) :
    BankHonest M t := by
  unfold Meaning.frame at h
  cases hsession : s.session with
  | uninitialized => rw [hsession] at h; cases h; exact hs
  | ready =>
    rw [hsession] at h
    cases h
    have hcopies : BankHonest M ((s.copyP M .lprev .lin).copyP M .lout .lin) :=
      macroInvariant_bankHonest.dispatchP _ nofun (macroInvariant_bankHonest.dispatchP _ nofun hs)
    intro hvalid
    obtain ⟨-, hkey, hbank⟩ := hcopies hvalid
    exact ⟨nofun, hkey, hbank⟩
  | steadyState => rw [hsession] at h; cases h; exact hs.steadyFrame (hsession ▸ nofun) hlevels

/-- Every command keeps the bank honest, its snapshot's level count within the buffer file. -/
theorem BankHonest.execOver {i : Instr} (hs : BankHonest M s) (hlevels : s.snap.levels ≤ Config.pyrMax)
    (h : execOver M i s = .next t) : BankHonest M t := by
  have hinv : MacroInvariant (BankHonest M) := macroInvariant_bankHonest
  have habandon (e : CmdError) : BankHonest M (s.abandon e) := hs
  have hspectrum (d : Spectrum) (lane : Nat → Nat → Cplx α) : BankHonest M (s.dispatchS d lane).complete :=
    hinv.dispatchS d lane hs
  have hforward (d : Spectrum) (a : Plane) : BankHonest M (s.fftForward M d a).complete := hinv.fftForward d a hs
  have htouched {u : State α ω} {d : Plane} (hu : (∀ i, d ≠ .mask i) → BankHonest M u) :
      BankHonest M (u.planeTouched d).complete := bankHonest_planeTouched hu
  cases i with
  | nop => cases h; exact hs
  | init => rcases Meaning.init_cases h with ⟨e, rfl⟩ | ⟨k, rfl⟩ <;> exact bankHonest_of_invalid rfl
  | shutdown => cases h; exact bankHonest_of_invalid rfl
  | frame => exact hs.frame hlevels h
  | tblBrev | tblTwid => exact State.finish_bind_induction h habandon fun _ _ => ⟨_, rfl, hs⟩
  | widen | center | conj | scale | copyS | zero | add | mulM | brevRow | brevCol | bflyRow | bflyCol | pamp =>
    exact State.finish_bind_induction h habandon fun _ _ => ⟨_, rfl, hspectrum _ _⟩
  | toMag | toPhase | toReal | copyP | genMask =>
    exact State.finish_bind_induction h habandon fun _ _ => ⟨_, rfl, htouched fun hd => hinv.dispatchP _ hd hs⟩
  | fftFwd => exact State.finish_bind_induction h habandon fun _ _ => ⟨_, rfl, hforward _ _⟩
  | fftInv =>
    exact State.finish_bind_induction h habandon fun _ _ => ⟨_, rfl, htouched fun hd => hinv.fftInverse hd _ hs⟩
  | genFilt =>
    refine State.finish_bind_induction h habandon fun _ hsession => ⟨_, rfl, ?_⟩
    have hopen : s.session ≠ .uninitialized := fun hclosed => by rw [needSession_error hclosed] at hsession; cases hsession
    exact (bankHonest_genFilt hopen hlevels : BankHonest M (s.genFilt M))

theorem BankHonest.runCurrent (hs : BankHonest M s) (hlevels : s.snap.levels ≤ Config.pyrMax)
    (h : s.runCurrent M = .next t) : BankHonest M t := by
  rcases State.runCurrent_cases M s with ⟨i, -, hrun⟩ | ⟨-, hrun⟩ <;> rw [hrun] at h
  · exact hs.execOver hlevels h
  · cases h; exact hs

/-! ## Host accesses and steps -/

theorem BankHonest.hostAccess {x : HostAccess ω} (hs : BankHonest M s) (h : s.hostAccess M x = .next t) :
    BankHonest M t := by
  rcases State.hostAccess_cases M h with hreg | ⟨-, w, rfl⟩ | ⟨p, -, rfl⟩ | ⟨p, v, -, rfl⟩ | ⟨q, z, -, rfl⟩
  · rw [← hreg.rest] at hs; exact hs
  · exact hs
  · exact bankHonest_planeTouched fun _ => hs
  · exact bankHonest_planeTouched fun hp => hs.writePlane hp s.regs.hbIdx.isLt v
  · exact hs

theorem BankHonest.stepOver (hs : BankHonest M s) (hsound : RunningSound s) (h : stepOver M s = .next t) :
    BankHonest M t := by
  have htail : BankHonest M { s with agenda := s.agenda.tail } := hs
  rcases stepOver_cases M h with ⟨-, rfl, -⟩ | ⟨hbusy, hrun, -⟩ | ⟨x, -, hx⟩ | ⟨-, rfl⟩ | ⟨ok, -, rfl⟩
  · exact hs
  · obtain ⟨-, hlevels, -⟩ := hsound hbusy
    exact htail.runCurrent hlevels hrun
  · exact htail.hostAccess hx
  · exact bankHonest_of_invalid rfl
  · exact hs

end

/-! ## The running command (R38 of 10, R250 of 44) -/

theorem runningSound_of_idle (h : s.busy = false) : RunningSound s := fun hbusy => absurd (h.symm.trans hbusy) nofun

/-- However a command ends, it ends idle. -/
theorem CommandEffect.idle (h : CommandEffect M s t) : t.busy = false := by cases h <;> rfl

theorem stepInvariant_runningSound : StepInvariant M (RunningSound : State α ω → Prop) where
  agenda _ hs := hs
  resources _ hs := hs
  registers h hs := by rw [← h.rest] at hs; exact hs
  accept _ _ := fun _ => (levels_effective_bounds M.ops M.cfgEps _).imp_right fun hmax => ⟨hmax, rfl⟩
  computes h hs := by rw [← h.rest] at hs; exact hs
  command h _ := runningSound_of_idle h.idle
  reset _ := runningSound_of_idle rfl

/-- Settles O45: a command generates the bank from a snapshot that acceptance has clamped, or clears `FBVALID` when it writes
a mask otherwise, as a window write does. -/
theorem stepKeepsBankHonest : Obligations.StepKeepsBankHonest :=
  fun _ _ ⟨hsound, hbank⟩ h => ⟨stepInvariant_runningSound.stepOver h hsound, hbank.stepOver hsound h⟩

end Sys2Proof.Machine
end

section
/-! The commands of 43_pyramid (O30, O31, O37, O38): ZERO, ADD, MULM and GENMASK check their operands and run one dispatch;
GENFILT is the GENMASK commands of its levels, which leave `FBVALID` clear where GENFILT sets it. -/

namespace Sys2Proof.Machine

/-! ## The commands, each as its checks and its run -/

section
variable (d a b level : Byte) (s : State)

theorem exec_zero : exec (.zero d) s = s.finish (operandsS d s >>= fun x =>
    .ok (s.dispatchS x fun _ _ => numerics.czero)) := rfl

theorem exec_add : exec (.add d a b) s = s.finish (operandsSSS d a b s >>= fun x =>
    .ok (s.dispatchS x.1 fun u v => numerics.cadd (s.specAt binary32 x.2.1 u v) (s.specAt binary32 x.2.2 u v))) := rfl

theorem exec_mulM : exec (.mulM d a b) s = s.finish (operandsSSP d a b s >>= fun x =>
    .ok (s.dispatchS x.1 fun u v => numerics.rmul (s.planeAt binary32 x.2.2 u v) (s.specAt binary32 x.2.1 u v))) := rfl

theorem exec_genMask : exec (.genMask d level) s = s.finish (operandsLevel d level s >>= fun x =>
    .ok ((s.dispatchP x.1 fun u v => bandMask numerics s.snap.levels s.snap.fmin s.snap.fmax x.2
      (radialFrequency numerics s.n u v)).planeTouched x.1)) := rfl

theorem exec_genFilt : exec .genFilt s = s.finish (needSession s >>= fun _ => .ok (s.genFilt binary32)) := rfl

end

theorem czero_eq : numerics.czero = ⟨Number.zero, Number.zero⟩ := by
  rw [Numerics.czero, numerics_ofNat, Number.ofNat_zero]

/-- Settles O30: each is one dispatch, whose lanes read the state before it, so that a destination may be a source. -/
theorem zeroClearsAndAddSums : Obligations.ZeroClearsAndAddSums := by
  refine ⟨fun d s => ⟨rfl, fun dq hd hs => ?_, decodeOnlyErrors_of_checks (exec_zero d s) operandsS_illcmd operandsS_state⟩,
    fun d a b s => ⟨rfl, fun _ _ _ hd ha hb hs => exists_writesSpectrum (exec_add d a b s) (operandsSSS_ok hd ha hb hs),
      decodeOnlyErrors_of_checks (exec_add d a b s) operandsSSS_illcmd operandsSSS_state⟩⟩
  have hwrites := exists_writesSpectrum (exec_zero d s) (operandsS_ok hd hs)
  rwa [czero_eq] at hwrites

/-- Settles O31: one dispatch on a spectrum, its lanes the bins times the elements of the plane. -/
theorem mulMScalesByMask : Obligations.MulMScalesByMask :=
  fun d a b s => ⟨rfl, fun _ _ _ hd ha hb hs => exists_writesSpectrum (exec_mulM d a b s) (operandsSSP_ok hd ha hb hs),
    decodeOnlyErrors_of_checks (exec_mulM d a b s) operandsSSP_illcmd operandsSSP_state⟩

/-- Settles O37: one dispatch on a plane, its lanes differences of band edges, unless the level is none of `SNAP`'s. -/
theorem genMaskWritesBandMask : Obligations.GenMaskWritesBandMask :=
  fun d level s => ⟨rfl,
    fun _ hd hs =>
      ⟨fun hlevel => exists_writesPlane (exec_genMask d level s) (operandsLevel_ok hd hs hlevel),
        fun hlevel => exists_abandonedWith (exec_genMask d level s) (operandsLevel_level hd hs hlevel)⟩,
    decodeOnlyErrors_of_checks (exec_genMask d level s) operandsLevel_illcmd operandsLevel_state⟩

/-! ## GENFILT as commands (R228, R231 of 43) -/

/-- `t`, reached inside GENFILT, as it is when its dispatches were issued as GENMASK commands: idle, the bank not valid. -/
def State.issuedBank {α ω : Type} (t : State α ω) : State α ω := { t with busy := false, fbValid := false }

theorem bankCommands_succ (k : Nat) :
    bankCommands (k + 1) = bankCommands k ++ [.genMask (BitVec.ofNat 8 (0x20 + k)) (BitVec.ofNat 8 k)] := by
  rw [bankCommands, List.range_succ, List.map_append]; rfl

section
variable {s : State} (hs : s.session ≠ .uninitialized)
include hs

/-- GENMASK M[i], #i (R222, R231 of 43). -/
theorem exec_genMask_mask {i : Nat} (hi : i < s.snap.levels) (hmax : s.snap.levels ≤ Config.pyrMax) :
    exec (.genMask (BitVec.ofNat 8 (0x20 + i)) (BitVec.ofNat 8 i)) s
      = .next (s.genMask binary32 (.mask (levelIndex i)) i).issuedBank := by
  have hbyte : (BitVec.ofNat 8 i).toNat = i := by
    have := Config.pyrMax_le
    rw [BitVec.toNat_ofNat, Nat.mod_eq_of_lt (by omega)]
  rw [exec_genMask, operandsLevel_ok (planeOf_mask (hi.trans_le hmax)) hs (hbyte.trans_lt hi), hbyte]
  rfl

/-- The first levels of GENFILT, at least one, issued as commands. -/
theorem runCommands_bankCommands (hmax : s.snap.levels ≤ Config.pyrMax) {k : Nat} (hk : k < s.snap.levels) :
    runCommands (bankCommands (k + 1)) s = .next (s.bankMasks binary32 (k + 1)).issuedBank := by
  induction k with
  | zero => exact runCommands_cons (exec_genMask_mask hs hk hmax) rfl
  | succ k ih =>
    have hbuffers : OnlyBuffers s (s.bankMasks binary32 (k + 1)) := onlyBuffers_bankMasks (k + 1) s
    have hlevels : (s.bankMasks binary32 (k + 1)).issuedBank.snap.levels = s.snap.levels :=
      congrArg Params.levels hbuffers.snap
    have hopen : (s.bankMasks binary32 (k + 1)).issuedBank.session ≠ .uninitialized := hbuffers.session.trans_ne hs
    rw [bankCommands_succ]
    exact runCommands_append (ih (by omega))
      (runCommands_cons (exec_genMask_mask hopen (hk.trans_eq hlevels.symm) (hlevels.trans_le hmax)) rfl)

end

section
variable {α ω : Type} {M : NumSystem α ω}

theorem State.ustep_bankMasks (k : Nat) (s : State α ω) : (s.bankMasks M k).ustep = s.ustep + k := by
  induction k with
  | zero => rfl
  | succ k ih => rw [State.bankMasks_succ, State.genMask, State.dispatchP_ustep, ih, Nat.add_assoc]

theorem State.spectra_bankMasks (k : Nat) (s : State α ω) : (s.bankMasks M k).spectra = s.spectra := by
  induction k with
  | zero => rfl
  | succ k ih => rw [State.bankMasks_succ, State.genMask, State.dispatchP_spectra, ih]

end

/-- Settles O38: the commands leave the masks with `FBVALID` clear, and GENFILT sets the flag and the key that its last
step names. -/
theorem genFiltIsItsExpansion : Obligations.GenFiltIsItsExpansion := by
  refine fun s => ⟨rfl, fun hs hpos hmax => ?_, decodeOnlyErrors_of_checks (exec_genFilt s) nofun fun _ => needSession_error⟩
  have hrun : runCommands (bankCommands s.snap.levels) s = .next (s.bankMasks binary32 s.snap.levels).issuedBank := by
    obtain ⟨k, hk⟩ := Nat.exists_eq_succ_of_ne_zero (Nat.one_le_iff_ne_zero.mp hpos)
    rw [hk]
    exact runCommands_bankCommands hs hmax (by omega)
  refine ⟨_, hrun, ?_, State.ustep_bankMasks _ s, State.spectra_bankMasks _ s⟩
  rw [exec_genFilt, needSession_ok hs, State.genFilt_eq]
  rfl

end Sys2Proof.Machine
end

section
/-! The masks and the radial frequency over the reals (O55): the band edges fall from 1 to 0 with the level, so each mask,
the difference of two of them, lies in `[0, 1]`, and all masks sum to 1 (`sum_bandMask`). -/

namespace Sys2Proof.Machine

/-! ## The band edges (R221 of 43) -/

section
variable {levels : Nat} (fmin fmax f : ℝ)

theorem bandEdge_zero : bandEdge realNumerics levels fmin fmax 0 f = 1 := by simp [bandEdge]

theorem bandEdge_last (h : 1 ≤ levels) : bandEdge realNumerics levels fmin fmax levels f = 0 := by
  simp [bandEdge, Nat.one_le_iff_ne_zero.mp h]

theorem bandEdge_of_between {j : Nat} (hpos : 0 < j) (hlt : j < levels) :
    bandEdge realNumerics levels fmin fmax j f
      = smoothstep realNumerics
        ((f - (fmin + j * ((fmax - fmin) / levels) - (fmax - fmin) / levels / 2)) / ((fmax - fmin) / levels)) := by
  simp [bandEdge, hpos.ne', hlt.ne]

theorem bandEdge_nonneg (j : Nat) : 0 ≤ bandEdge realNumerics levels fmin fmax j f := by
  unfold bandEdge
  split_ifs
  · simp
  · simp
  · exact smoothstep_nonneg _

theorem bandEdge_le_one (j : Nat) : bandEdge realNumerics levels fmin fmax j f ≤ 1 := by
  unfold bandEdge
  split_ifs
  · simp
  · simp
  · exact smoothstep_le_one _

variable {fmin fmax}

/-- Every edge is at least the next one: the next ramp starts at a higher frequency. -/
theorem bandEdge_succ_le (hband : fmin < fmax) {i : Nat} (hi : i < levels) :
    bandEdge realNumerics levels fmin fmax (i + 1) f ≤ bandEdge realNumerics levels fmin fmax i f := by
  rcases Nat.eq_zero_or_pos i with rfl | hpos
  · rw [bandEdge_zero]
    exact bandEdge_le_one fmin fmax f 1
  rcases (show i + 1 ≤ levels from hi).lt_or_eq with hlt | hlast
  · rw [bandEdge_of_between fmin fmax f (Nat.succ_pos i) hlt, bandEdge_of_between fmin fmax f hpos hi]
    have hwidth : 0 < (fmax - fmin) / levels := div_pos (sub_pos.mpr hband) (Nat.cast_pos.mpr (hpos.trans hi))
    refine smoothstep_mono (div_le_div_of_nonneg_right ?_ hwidth.le)
    push_cast
    linarith
  · rw [hlast, bandEdge_last fmin fmax f (Nat.one_le_of_lt hi)]
    exact bandEdge_nonneg fmin fmax f i

end

/-! ## The radial frequency (R191 of 42) -/

theorem radialFrequency_eq (n u v : Nat) :
    radialFrequency realNumerics n u v
      = min (1 / 2) (Real.sqrt (((u : ℝ) - (n / 2 : ℕ)) ^ 2 + ((v : ℝ) - (n / 2 : ℕ)) ^ 2) / n) := by
  have hcast (x y : ℤ) : ((x * x + y * y).toNat : ℝ) = (x : ℝ) ^ 2 + (y : ℝ) ^ 2 := by
    have hnonneg : 0 ≤ x * x + y * y := add_nonneg (mul_self_nonneg x) (mul_self_nonneg y)
    rw [← Int.cast_natCast, Int.toNat_of_nonneg hnonneg]
    push_cast
    ring
  simp only [radialFrequency, realNumerics_min, realNumerics_half, realNumerics_div, realNumerics_sqrt, realNumerics_ofNat,
    hcast]
  push_cast
  rfl

/-- Settles O55: the bounds of a mask are those of its edges. -/
theorem bandMasksSumToOne : Obligations.BandMasksSumToOne := by
  refine ⟨fun levels fmin fmax f hlevels => ⟨fun j => bandEdge_of_between fmin fmax f, bandEdge_zero fmin fmax f,
    bandEdge_last fmin fmax f hlevels, fun i => rfl, fun hband i hi => ?_, sum_bandMask levels hlevels fmin fmax f⟩,
    radialFrequency_eq⟩
  rw [bandMask, realNumerics_sub]
  exact ⟨sub_nonneg.mpr (bandEdge_succ_le f hband hi),
    (sub_le_self _ (bandEdge_nonneg fmin fmax f (i + 1))).trans (bandEdge_le_one fmin fmax f i)⟩

end Sys2Proof.Machine
end

section
/-! The life of a command and of a session (O5, O7, O10, O20, O21, O22): a step runs the command that the accepted word
decodes to, however a command ends it ends idle with a legal code, and only INIT, SHUTDOWN and the first FRAME move `STATE`
(R250 to R254 of 44_orchestrator). -/

namespace Sys2Proof

/-! ## Words as bytes (R71 of 20) -/

theorem wordOfBytes_fields (w : Word) : wordOfBytes (opField w) (dField w) (aField w) (bField w) = w := packWord_fields w

/-- What is read from the bytes of a word is what the decoder reads from the word. -/
theorem decode_of_decodeBytes {w : Word} {i : Instr} {rest : List Byte} (h : decodeBytes (bytesOfWord w) = .ok (i, rest)) :
    decode w = .ok i := by
  rw [bytesOfWord, decodeBytes, wordOfBytes_fields] at h
  split at h
  · rename_i hdecode; cases h; exact hdecode
  · cases h

theorem decode_of_decodeTableWord {w : Nat} {i : Instr} (h : decodeTableWord 32 w = some i) :
    decode (BitVec.ofNat 32 (w % 2 ^ 32)) = .ok i := by
  unfold decodeTableWord at h
  split at h
  · rename_i hbytes; cases h; exact decode_of_decodeBytes hbytes
  · cases h

end Sys2Proof

namespace Sys2Proof.Machine

variable {α ω : Type} {M : NumSystem α ω} {s t : State α ω} {i : Instr}

/-! ## The turn of a step (R84 of 20, R250 of 44) -/

section
variable [DecidableEq α]

theorem stepOver_of_agenda_nil (h : s.agenda = []) : stepOver M s = s.sequence M := by rw [stepOver, h]

theorem stepOver_of_agenda_cons {turn : Turn ω} {rest : List (Turn ω)} (h : s.agenda = turn :: rest) :
    stepOver M s = State.takeTurn M turn { s with agenda := rest } := by rw [stepOver, h]

theorem State.sequence_of_busy (h : s.busy = true) : s.sequence M = s.runCurrent M := if_pos h

theorem State.sequence_of_decode (hbusy : s.busy = true) (hdecode : decode s.cur = .ok i) :
    s.sequence M = execOver M i s := by
  rw [State.sequence_of_busy hbusy, State.runCurrent, hdecode]

end

/-! ## The code a command leaves (R280 of 60) -/

theorem CmdError.toNat_ofNat_code (e : CmdError) : (BitVec.ofNat 4 e.code).toNat = e.code := by cases e <;> rfl

/-- However a command ends, `LASTERR` is as before or the code of an abandonment. -/
theorem CommandEffect.lastErr (h : CommandEffect M s t) :
    t.lastErr = s.lastErr ∨ 1 ≤ t.lastErr.toNat ∧ t.lastErr.toNat ≤ 5 := by
  have hcode (e : CmdError) : 1 ≤ (BitVec.ofNat 4 e.code).toNat ∧ (BitVec.ofNat 4 e.code).toNat ≤ 5 := by
    rw [e.toNat_ofNat_code]; exact e.code_bounds
  cases h with
  | computed hu => exact .inl hu.lastErr
  | abandoned e => exact .inr (hcode e)
  | initFailed e => exact .inr (hcode e)
  | filledBrt | filledTwt | firstFrame | started | shutdown => exact .inl rfl

/-! ## `STATE` (R254 of 44) -/

/-- The rows of R254's table that a command answers for: what the command may do to `STATE`. -/
inductive ListedChange (s t : State α ω) : Instr → Prop
  | initReady (h : t.session = .ready) (herr : t.lastErr = s.lastErr) : ListedChange s t .init
  | initFailed (h : t.session = .uninitialized) : ListedChange s t .init
  | shutdown (h : t.session = .uninitialized) : ListedChange s t .shutdown
  | firstFrame (hs : s.session = .ready) (h : t.session = .steadyState) : ListedChange s t .frame

theorem Meaning.frame_session [DecidableEq α] (h : Meaning.frame M s = .next t) :
    t.session = s.session ∨ ListedChange s t .frame := by
  unfold Meaning.frame at h
  cases hs : s.session with
  | uninitialized => rw [hs] at h; cases h; exact .inl hs
  | ready => rw [hs] at h; cases h; exact .inr (.firstFrame hs rfl)
  | steadyState => rw [hs] at h; cases h; exact .inl ((Computes.refl s).steadyFrame.session.trans hs)

/-- A command keeps `STATE`, or changes it as listed. -/
theorem execOver_session [DecidableEq α] (h : execOver M i s = .next t) : t.session = s.session ∨ ListedChange s t i := by
  have hs := Computes.refl s
  have hfinish {β : Type} {r : Except CmdError β} {f : β → Except CmdError (State α ω)} (hend : s.finish (r >>= f) = .next t)
      (hrun : ∀ x, ∃ u, f x = .ok u ∧ u.session = s.session) : t.session = s.session :=
    State.finish_bind_induction (P := fun u => u.session = s.session) hend (fun _ => rfl) fun x _ => hrun x
  cases i with
  | nop => cases h; exact .inl rfl
  | init =>
    obtain ⟨e, rfl⟩ | ⟨k, rfl⟩ := Meaning.init_cases h
    · exact .inr (.initFailed rfl)
    · exact .inr (.initReady rfl rfl)
  | shutdown => cases h; exact .inr (.shutdown rfl)
  | frame => exact Meaning.frame_session h
  | tblBrev | tblTwid => exact .inl (hfinish h fun _ => ⟨_, rfl, rfl⟩)
  | widen | center | conj | scale | copyS | zero | add | mulM | brevRow | brevCol | bflyRow | bflyCol | pamp =>
    exact .inl (hfinish h fun _ => ⟨_, rfl, rfl⟩)
  | toMag | toPhase | toReal | copyP | genMask =>
    exact .inl (hfinish h fun _ => ⟨_, rfl, State.planeTouched_session _ _⟩)
  | fftFwd => exact .inl (hfinish h fun _ => ⟨_, rfl, (hs.fftForward _ _).session⟩)
  | fftInv => exact .inl (hfinish h fun _ => ⟨_, rfl, ((hs.fftInverse _ _).planeTouched _).session⟩)
  | genFilt => exact .inl (hfinish h fun _ => ⟨_, rfl, hs.genFilt.session⟩)

/-- No access of the host changes `STATE`. -/
theorem State.hostAccess_session [DecidableEq α] {x : HostAccess ω} (h : s.hostAccess M x = .next t) :
    t.session = s.session := by
  obtain hreg | ⟨-, w, rfl⟩ | ⟨p, -, rfl⟩ | ⟨p, v, -, rfl⟩ | ⟨q, z, -, rfl⟩ := State.hostAccess_cases M h
  · exact hreg.session
  · rfl
  · exact State.planeTouched_session _ _
  · exact State.planeTouched_session _ _
  · rfl

/-! ## INIT (R252 of 44) -/

/-- What the check of R252 of 44 on the canvas size says. -/
theorem isPowerOfTwo_iff {w : Nat} : isPowerOfTwo w = true ↔ ∃ k, w = 2 ^ k := by
  rw [isPowerOfTwo, Bool.and_eq_true, beq_iff_eq, bne_iff_ne]
  constructor
  · rintro ⟨-, hlog⟩
    exact ⟨_, hlog.symm⟩
  · rintro ⟨k, rfl⟩
    exact ⟨(Nat.two_pow_pos k).ne', by rw [Nat.log2_two_pow]⟩

/-- A canvas that is not square, too small or no power of two fails the precondition. -/
theorem Meaning.init_of_badCanvas (h : s.snap.canvasW ≠ s.snap.canvasH ∨ s.snap.canvasW.toNat < 2
    ∨ ∀ k, s.snap.canvasW.toNat ≠ 2 ^ k) : Meaning.init M s = .next (s.failInit .precond) := by
  refine if_pos ?_
  obtain hsquare | hsmall | hpower := h
  · exact .inl fun heq => hsquare (BitVec.eq_of_toNat_eq heq)
  · exact .inr (.inl hsmall)
  · exact .inr (.inr (Bool.eq_false_iff.mpr fun htrue => (isPowerOfTwo_iff.mp htrue).elim hpower))

/-- On a canvas of size `2^k` the capacity and the draw of `res_ok` decide. -/
theorem Meaning.init_of_canvas {k : Nat} (hpos : 1 ≤ k) (hw : s.snap.canvasW.toNat = 2 ^ k)
    (hh : s.snap.canvasH.toNat = 2 ^ k) :
    Meaning.init M s = if Config.lognMax < k ∨ s.resDraw = false then .next (s.failInit .unavail)
      else .next (s.startSession M k).complete := by
  have hsize : 2 ≤ 2 ^ k := Nat.le_self_pow (by omega) 2
  have hpower : isPowerOfTwo (2 ^ k) = true := isPowerOfTwo_iff.mpr ⟨k, rfl⟩
  have hgood : ¬ (2 ^ k ≠ 2 ^ k ∨ 2 ^ k < 2 ∨ isPowerOfTwo (2 ^ k) = false) := by
    rintro (hsquare | hsmall | hpower')
    · exact hsquare rfl
    · exact hsize.not_gt hsmall
    · exact Bool.noConfusion (hpower.symm.trans hpower')
  simp only [Meaning.init, hw, hh, if_neg hgood, Nat.log2_two_pow]

theorem sessionEnded_failInit (s : State α ω) (e : CmdError) : SessionEnded s (s.failInit e) where
  session := rfl
  bank := rfl
  forgotten := ⟨rfl, rfl, rfl, rfl, rfl⟩
  rest := rfl

theorem sessionStarted_startSession (s : State α ω) {k : Nat} (hpos : 1 ≤ k) (hmax : k ≤ Config.lognMax) :
    SessionStarted M s (s.startSession M k).complete k := by
  have hlogn : (s.startSession M k).logn.val = k := State.startSession_logn hmax
  have hopen : OpenSession M (s.startSession M k).logn.val (s.startSession M k) :=
    (sessionTables_startSession hpos hmax).openSession nofun
  rw [hlogn] at hopen
  exact {
    session := rfl
    canvas := hlogn
    flags := ⟨rfl, rfl, rfl⟩
    forgotten := ⟨rfl, rfl, rfl⟩
    brt := hopen.brt
    twt := hopen.twt
    counted := rfl
    rest := rfl }

/-- What a failed INIT shows (R252 of 44, R286 of 60). -/
theorem exists_failedInit {s : State} {e : CmdError} (h : Meaning.init binary32 s = .next (s.failInit e)) :
    ∃ t, exec .init s = .next t ∧ SessionEnded s t ∧ t.pp = s.pp ∧ t.lastErr = BitVec.ofNat 4 e.code ∧ t.busy = false
      ∧ ∀ j, j < 32 → t.errLog.getLsbD j = (s.errLog.getLsbD j || decide (j = e.code)) :=
  ⟨s.failInit e, h, sessionEnded_failInit s e, rfl, rfl, rfl, State.getLsbD_logError s e.code⟩

/-! ## The obligations -/

/-- Settles O7: running a word always gives a next state, and whatever its command did, it ended idle with a legal code. -/
theorem acceptedCommandEnds : Obligations.AcceptedCommandEnds := by
  intro s hbusy
  obtain ⟨t, hrun⟩ := s.exists_runCurrent binary32
  have heffect : CommandEffect binary32 s t := commandEffect_runCurrent hrun
  exact ⟨t, (State.sequence_of_busy hbusy).trans hrun, heffect.idle, heffect.lastErr⟩

/-- Settles O10: by the turn the step takes; in the sequencer's, by the command. -/
theorem sessionChangesAsListed : Obligations.SessionChangesAsListed := by
  intro s t h
  obtain ⟨-, rfl, -⟩ | ⟨hbusy, hrun, hturn⟩ | ⟨x, -, hx⟩ | ⟨hreset, rfl⟩ | ⟨ok, -, rfl⟩ := stepOver_cases binary32 h
  · exact .inl rfl
  · obtain ⟨i, hdecode, hexec⟩ | ⟨-, hillegal⟩ := State.runCurrent_cases binary32 { s with agenda := s.agenda.tail }
    · rw [hexec] at hrun
      refine (execOver_session hrun).imp_right fun hlisted => .inr ⟨hturn, hbusy, ?_⟩
      cases hlisted with
      | initReady hready herr => exact .inl ⟨hdecode, .inl ⟨hready, herr⟩⟩
      | initFailed hended => exact .inl ⟨hdecode, .inr hended⟩
      | shutdown hended => exact .inr (.inl ⟨hdecode, hended⟩)
      | firstFrame hready hsteady => exact .inr (.inr ⟨hdecode, hready, hsteady⟩)
    · rw [hillegal] at hrun
      cases hrun
      exact .inl rfl
  · have hkept := State.hostAccess_session hx
    exact .inl hkept
  · exact .inr (.inl ⟨hreset, rfl⟩)
  · exact .inl rfl

/-- Settles O21: the checks of R252 in their order, then what each way out leaves. -/
theorem initStartsOrEndsSession : Obligations.InitStartsOrEndsSession := by
  refine fun s => ⟨rfl, fun hbad => exists_failedInit (Meaning.init_of_badCanvas hbad), fun k hpos hw hh =>
    ⟨fun hunavail => exists_failedInit ((Meaning.init_of_canvas hpos hw hh).trans (if_pos hunavail)),
      fun hmax hdraw => ⟨_, (Meaning.init_of_canvas hpos hw hh).trans (if_neg ?_), sessionStarted_startSession s hpos hmax⟩⟩⟩
  rw [hdraw]
  simp [hmax]

/-- Settles O5: the turn a step takes is the head of the agenda, or the sequencer's, whose command is the decoded one. -/
theorem stepRunsDecodedCommand : Obligations.StepRunsDecodedCommand := by
  refine ⟨fun s i hbusy hdecode => ⟨fun hagenda => ?_, fun rest hagenda => ?_⟩, fun s i w hword => ?_,
    fun s x rest hagenda => stepOver_of_agenda_cons hagenda⟩
  · rw [exec_eq_execOver, step_eq_stepOver, stepOver_of_agenda_nil hagenda, State.sequence_of_decode hbusy hdecode]
  · rw [exec_eq_execOver, step_eq_stepOver, stepOver_of_agenda_cons hagenda]
    exact State.sequence_of_decode (s := { s with agenda := rest }) hbusy hdecode
  · have hmod : BitVec.ofNat 32 (w % 2 ^ 32) = BitVec.ofNat 32 w := BitVec.eq_of_toNat_eq (by simp)
    have hdecode : decode (BitVec.ofNat 32 w) = .ok i := hmod ▸ decode_of_decodeTableWord hword
    rw [exec_eq_execOver, step_eq_stepOver, State.withFetchWord, hmod]
    exact State.sequence_of_decode (s := s.accept binary32 (BitVec.ofNat 32 w)) rfl hdecode

/-- Settles O20: NOP only ends the command. -/
theorem nopChangesNothing : Obligations.NopChangesNothing := fun s => ⟨rfl, s.complete, rfl, rfl, rfl⟩

/-- Settles O22: SHUTDOWN has no check, and names every field that it changes. -/
theorem shutdownEndsSession : Obligations.ShutdownEndsSession :=
  fun _ => ⟨rfl, _, rfl, ⟨rfl, rfl, ⟨rfl, rfl, rfl, rfl, rfl⟩, rfl⟩, rfl, rfl, rfl, rfl⟩

end Sys2Proof.Machine
end

section
/-! FRAME command by command (O39, O40, O41): the first frame is two copies; a steady frame is the dispatches of its
expansion (R255 of 44, R229 of 43). A host that issues the expansion sees after each command the state the frame has
reached, completed (`State.complete`): no dispatch reads or changes `BUSY`, which is said once for each macro. -/

namespace Sys2Proof.Machine

/-! ## The parts of a steady frame (R229 of 43, R255 of 44) -/

section
variable {α ω : Type} (M : NumSystem α ω)

/-- Steps 3 and 4 of R255: both spectra. -/
def State.frameSpectra (s : State α ω) : State α ω := (s.fftForward M .scur .lin).fftForward M .sprv .lprev

/-- Steps 7 to 10 of R255: the frame out, the diagnostic plane, the frame kept. -/
def State.frameOutput (s : State α ω) : State α ω :=
  ((s.fftInverse M .lout .smod).diagnose M).copyP M .lprev .lin

/-- Step 2 of R229 for one level. -/
def State.extractBand (i : Nat) (s : State α ω) : State α ω :=
  (s.mulM M (.bcur (levelIndex i)) .scur (.mask (levelIndex i))).mulM M (.bprv (levelIndex i)) .sprv (.mask (levelIndex i))

/-- Step 3 of R229 for one level. -/
def State.amplifyBand (i : Nat) (s : State α ω) : State α ω :=
  s.amplify M (.bprc (levelIndex i)) (.bcur (levelIndex i)) (.bprv (levelIndex i))

/-- Step 4 of R229 for one level. -/
def State.addBand (i : Nat) (s : State α ω) : State α ω := s.add M .smod .smod (.bprc (levelIndex i))

/-- Steps 2 to 4 of R229 for `k` levels. -/
def State.processBands (k : Nat) (s : State α ω) : State α ω :=
  State.forLevels (State.addBand M) k
    ((State.forLevels (State.amplifyBand M) k (State.forLevels (State.extractBand M) k s)).zero M .smod)

/-- The bank is valid for the snapshot's triple, so that step 1 of R229 has nothing to generate. -/
def BankFresh (s : State α ω) : Prop := s.fbValid = true ∧ s.fbKey = s.snapKey

variable {M} [DecidableEq α] {s : State α ω}

theorem State.decompose_eq (s : State α ω) : s.decompose M = (s.refreshBank M).processBands M s.snap.levels := rfl

theorem State.steadyFrame_of_singleBand (h : s.snap.pyr = false) :
    s.steadyFrame M = ((s.frameSpectra M).amplify M .smod .scur .sprv).frameOutput M := by
  rw [State.steadyFrame, h]; rfl

theorem State.steadyFrame_of_pyramid (h : s.snap.pyr = true) :
    s.steadyFrame M = ((s.frameSpectra M).decompose M).frameOutput M := by
  rw [State.steadyFrame, h]; rfl

theorem State.refreshBank_of_fresh (h : BankFresh s) : s.refreshBank M = s := if_pos h

theorem State.refreshBank_of_stale (h : ¬ BankFresh s) : s.refreshBank M = s.genFilt M :=
  if_neg h

end

/-! ## What the parts leave of the flags and the count -/

section
variable {α ω : Type} {M : NumSystem α ω} (s : State α ω)

/-- A dispatch of the diagnostic plane, or none. -/
theorem State.diagnose_cases : (∃ lane, (s.snap.showmag || s.snap.showph) = true ∧ s.diagnose M = s.dispatchP .diag lane)
    ∨ ((s.snap.showmag || s.snap.showph) = false ∧ s.diagnose M = s) := by
  unfold State.diagnose
  cases s.snap.showmag with
  | true => exact .inl ⟨_, rfl, if_pos rfl⟩
  | false =>
    cases s.snap.showph with
    | true => exact .inl ⟨_, rfl, (if_neg Bool.false_ne_true).trans (if_pos rfl)⟩
    | false => exact .inr ⟨rfl, rfl⟩

theorem State.pp_frameOutput : (s.frameOutput M).pp = false := by
  have hinverse : (s.fftInverse M .lout .smod).pp = false := s.pp_fftInverse _ _
  obtain ⟨lane, -, h⟩ | ⟨-, h⟩ := (s.fftInverse M .lout .smod).diagnose_cases (M := M) <;>
    rw [State.frameOutput, h] <;> exact hinverse

theorem onlyBuffers_fftInverse (d : Plane) (a : Spectrum) : OnlyBuffers s (s.fftInverse M d a) :=
  ((Computes.refl s).fftInverse d a).toOnlyBuffers

theorem computes_frameSpectra : Computes s (s.frameSpectra M) := ((Computes.refl s).fftForward _ _).fftForward _ _

theorem onlyBuffers_frameSpectra : OnlyBuffers s (s.frameSpectra M) := (computes_frameSpectra s).toOnlyBuffers

theorem State.ustep_frameSpectra : (s.frameSpectra M).ustep = s.ustep + (10 + 4 * s.logn.val) := by
  have hlogn : (s.fftForward M .scur .lin).logn = s.logn := ((Computes.refl s).fftForward .scur .lin).logn
  rw [State.frameSpectra, State.ustep_fftForward, State.ustep_fftForward, hlogn]
  omega

theorem State.ustep_frameOutput : (s.frameOutput M).ustep
    = s.ustep + (8 + 2 * s.logn.val + if s.snap.showmag || s.snap.showph then 1 else 0) := by
  have hsnap : (s.fftInverse M .lout .smod).snap = s.snap := (onlyBuffers_fftInverse s .lout .smod).snap
  have hinverse : (s.fftInverse M .lout .smod).ustep = s.ustep + (7 + 2 * s.logn.val) := s.ustep_fftInverse _ _
  obtain ⟨lane, hflag, h⟩ | ⟨hflag, h⟩ := (s.fftInverse M .lout .smod).diagnose_cases (M := M) <;> rw [hsnap] at hflag
  · rw [State.frameOutput, h, State.copyP, State.dispatchP_ustep, State.dispatchP_ustep, hinverse, if_pos hflag]; omega
  · rw [State.frameOutput, h, State.copyP, State.dispatchP_ustep, hinverse, hflag, if_neg Bool.false_ne_true]; omega

/-- What every body of a loop over levels leaves unchanged, the loop leaves unchanged. -/
theorem State.forLevels_unchanged {β : Type} (op : Nat → State α ω → State α ω) (field : State α ω → β)
    (hop : ∀ i t, field (op i t) = field t) (k : Nat) : field (State.forLevels op k s) = field s :=
  State.forLevels_induction (P := fun u => field u = field s) (fun i u hu => (hop i u).trans hu) k s rfl

/-- The count after a loop whose body counts `c` dispatches. -/
theorem State.ustep_forLevels {op : Nat → State α ω → State α ω} {c : Nat}
    (hop : ∀ i t, (op i t).ustep = t.ustep + c) (k : Nat) : (State.forLevels op k s).ustep = s.ustep + c * k := by
  induction k with
  | zero => rfl
  | succ k ih => rw [State.forLevels, hop, ih, Nat.mul_succ, Nat.add_assoc]

theorem State.ustep_processBands (k : Nat) : (s.processBands M k).ustep = s.ustep + (4 * k + 1) := by
  rw [State.processBands, State.ustep_forLevels (c := 1) _ fun _ _ => rfl, State.zero, State.dispatchS_ustep,
    State.ustep_forLevels (c := 1) _ fun _ _ => rfl, State.ustep_forLevels (c := 2) _ fun _ _ => rfl]
  omega

theorem State.ustep_genFilt : (s.genFilt M).ustep = s.ustep + s.snap.levels := State.ustep_bankMasks _ s

/-- Whatever a refresh of the bank finds, it leaves the bank valid for the snapshot's triple (R229 of 43). -/
theorem State.refreshBank_flags [DecidableEq α] :
    (s.refreshBank M).fbValid = true ∧ (s.refreshBank M).fbKey = s.snapKey := by
  by_cases h : BankFresh s
  · rwa [State.refreshBank_of_fresh h]
  · rw [State.refreshBank_of_stale h]
    exact ⟨rfl, rfl⟩

theorem macroInvariant_bankFlags (valid : Bool) (key : BankKey α) :
    MacroInvariant fun t : State α ω => t.fbValid = valid ∧ t.fbKey = key where
  dispatchS _ _ h := h
  dispatchP _ _ h := h
  parity _ h := h

theorem MacroInvariant.frameSpectra {P : State α ω → Prop} (hP : MacroInvariant P) {s : State α ω} (hs : P s) :
    P (s.frameSpectra M) := hP.fftForward _ _ (hP.fftForward _ _ hs)

theorem MacroInvariant.frameOutput {P : State α ω → Prop} (hP : MacroInvariant P) {s : State α ω} (hs : P s) :
    P (s.frameOutput M) := hP.dispatchP _ nofun (hP.diagnose (hP.fftInverse (d := .lout) nofun _ hs))

end

/-! ## What the parts leave of the planes -/

section
variable {α ω : Type} {M : NumSystem α ω} {s t : State α ω} {p : Plane} {x y : Nat}

theorem OnlyBuffers.planeAt_of_planes (h : OnlyBuffers s t) (hplanes : t.planes = s.planes) :
    t.planeAt M p x y = s.planeAt M p x y := by
  have hepoch : t.epoch = s.epoch := (congrArg State.epoch h.rest :)
  rw [State.planeAt, State.planeAt, h.n, State.planeElem_congr M hplanes hepoch]

theorem State.planes_frameSpectra (s : State α ω) : (s.frameSpectra M).planes = s.planes :=
  ((s.fftForward M .scur .lin).planes_fftForward .sprv .lprev).trans (s.planes_fftForward .scur .lin)

theorem State.planes_processBands (k : Nat) (s : State α ω) : (s.processBands M k).planes = s.planes := by
  have hloop (op : Nat → State α ω → State α ω) (hop : ∀ i u, (op i u).planes = u.planes) (u : State α ω) :
      (State.forLevels op k u).planes = u.planes := u.forLevels_unchanged op State.planes hop k
  rw [State.processBands, hloop (State.addBand M) fun _ _ => rfl, State.zero, State.dispatchS_planes,
    hloop (State.amplifyBand M) fun _ _ => rfl, hloop (State.extractBand M) fun _ _ => rfl]

theorem onlyBuffers_processBands (k : Nat) (s : State α ω) : OnlyBuffers s (s.processBands M k) := by
  have hloop (op : Nat → State α ω → State α ω) (hop : ∀ i u, OnlyBuffers s u → OnlyBuffers s (op i u)) {u : State α ω}
      (hu : OnlyBuffers s u) : OnlyBuffers s (State.forLevels op k u) := State.forLevels_induction hop k u hu
  have hbands := hloop (State.extractBand M) (fun _ _ hu => ⟨hu.rest⟩) (OnlyBuffers.refl s)
  have hamp := hloop (State.amplifyBand M) (fun _ _ hu => ⟨hu.rest⟩) hbands
  exact hloop (State.addBand M) (fun _ _ hu => ⟨hu.rest⟩) ⟨hamp.rest⟩

section
variable (hx : x < s.n) (hy : y < s.n)
include hx hy

theorem State.planeAt_toReal_of_ne {d : Plane} (hp : p ≠ d) (a : Spectrum) :
    (s.toReal M d a).planeAt M p x y = s.planeAt M p x y := by
  rw [State.toReal, State.planeAt_dispatchP M s _ _ _ hx hy, if_neg hp]

theorem State.planeAt_storeReal_of_ne {d : Plane} (hp : p ≠ d) :
    (s.storeReal M d).planeAt M p x y = s.planeAt M p x y :=
  State.planeAt_toReal_of_ne (s := ((s.conj M .w0 .w0).scale M .w0 .w0).center M .w0 .w0) hx hy hp .w0

/-- FFT.INV writes its destination and no other plane (R172 of 41). -/
theorem State.planeAt_fftInverse_of_ne {d : Plane} (hp : p ≠ d) (a : Spectrum) :
    (s.fftInverse M d a).planeAt M p x y = s.planeAt M p x y := by
  have hload : OnlyBuffers s (s.loadConj M a) := ⟨rfl⟩
  have hpasses : OnlyBuffers s ((s.loadConj M a).rowsAndColumns M) := hload.rowsAndColumns
  have hplanes : ((s.loadConj M a).rowsAndColumns M).planes = s.planes := (s.loadConj M a).planes_rowsAndColumns
  have hn : ((s.loadConj M a).rowsAndColumns M).n = s.n := hpasses.n
  rw [State.fftInverse_eq, State.planeAt_storeReal_of_ne (hx.trans_eq hn.symm) (hy.trans_eq hn.symm) hp]
  exact hpasses.planeAt_of_planes hplanes

theorem State.planeAt_diagnose_of_ne (hp : p ≠ .diag) : (s.diagnose M).planeAt M p x y = s.planeAt M p x y := by
  obtain ⟨lane, -, h⟩ | ⟨-, h⟩ := s.diagnose_cases (M := M) <;> rw [h]
  rw [State.planeAt_dispatchP M s _ _ _ hx hy, if_neg hp]

theorem State.planeAt_genFilt_of_ne (hp : ∀ i, p ≠ .mask i) : (s.genFilt M).planeAt M p x y = s.planeAt M p x y := by
  have hmasks (k : Nat) : (s.bankMasks M k).planeAt M p x y = s.planeAt M p x y := by
    induction k with
    | zero => rfl
    | succ k ih =>
      have hn : (s.bankMasks M k).n = s.n := (onlyBuffers_bankMasks k s).n
      rw [State.bankMasks_succ, State.genMask,
        State.planeAt_dispatchP M _ _ _ _ (hx.trans_eq hn.symm) (hy.trans_eq hn.symm), if_neg (hp _), ih]
  exact hmasks s.snap.levels

/-- The decomposer writes no plane but masks (R229 of 43). -/
theorem State.planeAt_decompose_of_ne [DecidableEq α] (hp : ∀ i, p ≠ .mask i) :
    (s.decompose M).planeAt M p x y = s.planeAt M p x y := by
  rw [State.decompose_eq, (onlyBuffers_processBands _ _).planeAt_of_planes (State.planes_processBands _ _)]
  by_cases h : BankFresh s
  · rw [State.refreshBank_of_fresh h]
  · rw [State.refreshBank_of_stale h, State.planeAt_genFilt_of_ne hx hy hp]

/-- The end of a steady frame keeps `LIN` and leaves a copy of it in `LPREV` (step 10 of R255 of 44). -/
theorem State.planeAt_frameOutput : (s.frameOutput M).planeAt M .lin x y = s.planeAt M .lin x y
    ∧ (s.frameOutput M).planeAt M .lprev x y = s.planeAt M .lin x y := by
  have hn : (s.fftInverse M .lout .smod).n = s.n := (onlyBuffers_fftInverse s .lout .smod).n
  have hx' : x < (s.fftInverse M .lout .smod).n := hx.trans_eq hn.symm
  have hy' : y < (s.fftInverse M .lout .smod).n := hy.trans_eq hn.symm
  have hdiag : ((s.fftInverse M .lout .smod).diagnose M).n = (s.fftInverse M .lout .smod).n :=
    ((Computes.refl _).diagnose).n
  have hlin : ((s.fftInverse M .lout .smod).diagnose M).planeAt M .lin x y = s.planeAt M .lin x y :=
    (State.planeAt_diagnose_of_ne (p := .lin) hx' hy' nofun).trans
      (State.planeAt_fftInverse_of_ne (p := .lin) (d := .lout) hx hy nofun .smod)
  have hcopy (q : Plane) := State.planeAt_dispatchP M ((s.fftInverse M .lout .smod).diagnose M) .lprev
    (fun x y => ((s.fftInverse M .lout .smod).diagnose M).planeAt M .lin x y) q (hx'.trans_eq hdiag.symm)
    (hy'.trans_eq hdiag.symm)
  exact ⟨(hcopy .lin).trans ((if_neg nofun).trans hlin), (hcopy .lprev).trans ((if_pos rfl).trans hlin)⟩

end

end

/-! ## The macros do not depend on `BUSY` -/

section
variable {α ω : Type} {M : NumSystem α ω}

theorem Axis.passes_complete (ax : Axis) (j : Nat) (t : State α ω) :
    ax.passes M j t.complete = (ax.passes M j t).complete := by
  induction j with
  | zero => cases ax <;> rfl
  | succ j ih =>
    have hsucc (u : State α ω) :
        ax.passes M (j + 1) u = (ax.passes M j u).pingPong fun d a => ax.pass M d a (j + 1) := rfl
    rw [hsucc, hsucc, ih]
    cases ax <;> rfl

theorem State.rowsAndColumns_complete (t : State α ω) : t.complete.rowsAndColumns M = (t.rowsAndColumns M).complete := by
  rw [State.rowsAndColumns_eq_passes, Axis.passes_complete, Axis.passes_complete]; rfl

theorem State.fftForward_complete (d : Spectrum) (a : Plane) (t : State α ω) :
    t.complete.fftForward M d a = (t.fftForward M d a).complete := by
  have hpasses : (t.complete.loadCentred M a).rowsAndColumns M = ((t.loadCentred M a).rowsAndColumns M).complete :=
    State.rowsAndColumns_complete (t.loadCentred M a)
  rw [State.fftForward_eq, hpasses]; rfl

theorem State.storeReal_complete (d : Plane) (t : State α ω) : t.complete.storeReal M d = (t.storeReal M d).complete := by
  have hcentred : ((t.complete.conj M .w0 .w0).scale M .w0 .w0).center M .w0 .w0
      = (((t.conj M .w0 .w0).scale M .w0 .w0).center M .w0 .w0).complete := rfl
  rw [State.storeReal, hcentred]; rfl

theorem State.fftInverse_complete (d : Plane) (a : Spectrum) (t : State α ω) :
    t.complete.fftInverse M d a = (t.fftInverse M d a).complete := by
  have hpasses : (t.complete.loadConj M a).rowsAndColumns M = ((t.loadConj M a).rowsAndColumns M).complete :=
    State.rowsAndColumns_complete (t.loadConj M a)
  rw [State.fftInverse_eq, hpasses, State.storeReal_complete, ← State.fftInverse_eq]

theorem State.bankMasks_complete (k : Nat) (t : State α ω) : t.complete.bankMasks M k = (t.bankMasks M k).complete := by
  induction k with
  | zero => rfl
  | succ k ih => rw [State.bankMasks_succ, ih]; rfl

theorem State.genFilt_complete (t : State α ω) : t.complete.genFilt M = (t.genFilt M).complete := by
  rw [State.genFilt_eq, State.bankMasks_complete]; rfl

end

/-! ## The parts as commands -/

/-- Different buffers have different identifiers. -/
theorem ne_of_spectrumOf_ne {a b : Byte} {p q : Spectrum} (ha : spectrumOf a = some p) (hb : spectrumOf b = some q)
    (h : p ≠ q) : a ≠ b := by
  rintro rfl
  exact h (Option.some.inj (ha.symm.trans hb))

section
variable {t : State} (hs : t.session ≠ .uninitialized)
include hs

theorem exec_fftFwd_of_operands {d a : Byte} {dq : Spectrum} {ap : Plane} (hd : spectrumOf d = some dq)
    (ha : planeOf a = some ap) : exec (.fftFwd d a) t = .next (t.fftForward binary32 dq ap).complete := by
  rw [exec_eq_execOver, execOver_fftFwd hs hd ha]

/-- Steps 3 and 4 of R255 of 44. -/
theorem runCommands_frameSpectra :
    runCommands [.fftFwd 0x42 0x00, .fftFwd 0x43 0x01] t = .next (t.frameSpectra binary32).complete := by
  have hopen : (t.fftForward binary32 .scur .lin).complete.session ≠ .uninitialized :=
    ((Computes.refl t).fftForward .scur .lin).session.trans_ne hs
  refine runCommands_cons (exec_fftFwd_of_operands hs (dq := .scur) (ap := .lin) rfl rfl)
    (runCommands_cons (exec_fftFwd_of_operands hopen (dq := .sprv) (ap := .lprev) rfl rfl) ?_)
  rw [State.fftForward_complete]; rfl

theorem exec_fftInv_complete :
    exec (.fftInv 0x02 0x44) t.complete = .next (t.fftInverse binary32 .lout .smod).complete := by
  rw [exec_eq_execOver, execOver_fftInv (M := binary32) (s := t.complete) (dp := .lout) (aq := .smod) hs rfl rfl,
    State.fftInverse_complete]
  rfl

theorem exec_genFilt_complete : exec .genFilt t.complete = .next (t.genFilt binary32).complete := by
  have hexec : exec .genFilt t.complete = .next (t.complete.genFilt binary32).complete := by
    rw [exec_genFilt, needSession_ok (s := t.complete) hs]; rfl
  rw [hexec, State.genFilt_complete]; rfl

theorem exec_copyP_complete :
    exec (.copyP 0x01 0x00) t.complete = .next (t.copyP binary32 .lprev .lin).complete := by
  rw [exec_copyP, operandsPP_ok (s := t.complete) (dp := .lprev) (ap := .lin) rfl rfl hs]; rfl

theorem exec_zero_complete : exec (.zero 0x44) t.complete = .next (t.zero binary32 .smod).complete := by
  rw [exec_zero, operandsS_ok (s := t.complete) (dq := .smod) rfl hs]; rfl

/-- Step 5 of R255 of 44. -/
theorem exec_pamp_complete :
    exec (.pamp 0x44 0x42 0x43) t.complete = .next (t.amplify binary32 .smod .scur .sprv).complete := by
  rw [exec_pamp, operandsAmp_ok (s := t.complete) (dq := .smod) (aq := .scur) (bq := .sprv) rfl rfl rfl hs
    (by decide) (by decide)]
  rfl

/-- Step 9 of R255 of 44; with both flags set `showMagnitude` wins. -/
theorem runCommands_diagnosticCommands :
    runCommands (diagnosticCommands t.snap) t.complete = .next (t.diagnose binary32).complete := by
  unfold diagnosticCommands State.diagnose
  cases t.snap.showmag with
  | true =>
    refine runCommands_cons (t := (t.toMag binary32 .diag .smod).complete) ?_ rfl
    rw [exec_toMag, operandsPS_ok (s := t.complete) (dp := .diag) (aq := .smod) rfl rfl hs]; rfl
  | false =>
    cases t.snap.showph with
    | true =>
      refine runCommands_cons (t := (t.toPhase binary32 .diag .smod).complete) ?_ rfl
      rw [exec_toPhase, operandsPS_ok (s := t.complete) (dp := .diag) (aq := .smod) rfl rfl hs]; rfl
    | false => rfl

/-- Steps 7 to 10 of R255 of 44. -/
theorem runCommands_frameOutput :
    runCommands (.fftInv 0x02 0x44 :: (diagnosticCommands t.snap ++ [.copyP 0x01 0x00])) t.complete
      = .next (t.frameOutput binary32).complete := by
  have hbuffers : OnlyBuffers t (t.fftInverse binary32 .lout .smod) := onlyBuffers_fftInverse t .lout .smod
  have hopen : (t.fftInverse binary32 .lout .smod).session ≠ .uninitialized := hbuffers.session.trans_ne hs
  have hdiag : ((t.fftInverse binary32 .lout .smod).diagnose binary32).session ≠ .uninitialized :=
    (Computes.refl _).diagnose.session.trans_ne hopen
  rw [← hbuffers.snap]
  exact runCommands_cons (exec_fftInv_complete hs) (runCommands_append (runCommands_diagnosticCommands hopen)
    (runCommands_cons (exec_copyP_complete hdiag) rfl))

/-- A loop over levels whose body is the run of some commands, issued as commands. -/
theorem runCommands_levels {commands : Nat → List Instr} {op : Nat → State → State} {k : Nat}
    (hkeeps : ∀ i u, (op i u).session = u.session)
    (hop : ∀ i, i < k → ∀ u : State, u.session ≠ .uninitialized →
      runCommands (commands i) u.complete = .next (op i u).complete) :
    runCommands ((List.range k).flatMap commands) t.complete = .next (State.forLevels op k t).complete := by
  induction k with
  | zero => rfl
  | succ k ih =>
    have hopen : (State.forLevels op k t).session ≠ .uninitialized :=
      (t.forLevels_unchanged op State.session hkeeps k).trans_ne hs
    rw [List.range_succ, List.flatMap_append, List.flatMap_singleton]
    exact runCommands_append (ih fun i hi => hop i (hi.trans (Nat.lt_succ_self k))) (hop k (Nat.lt_succ_self k) _ hopen)

section
variable {i : Nat} (hi : i < Config.pyrMax)
include hi

theorem runCommands_extractBand :
    runCommands [.mulM (BitVec.ofNat 8 (0x60 + i)) 0x42 (BitVec.ofNat 8 (0x20 + i)),
        .mulM (BitVec.ofNat 8 (0x80 + i)) 0x43 (BitVec.ofNat 8 (0x20 + i))] t.complete
      = .next (t.extractBand binary32 i).complete := by
  have hmul {u : State} {d a : Byte} {dq aq : Spectrum} (hu : u.session ≠ .uninitialized) (hd : spectrumOf d = some dq)
      (ha : spectrumOf a = some aq) :
      exec (.mulM d a (BitVec.ofNat 8 (0x20 + i))) u.complete
        = .next (u.mulM binary32 dq aq (.mask (levelIndex i))).complete := by
    rw [exec_mulM, operandsSSP_ok (s := u.complete) hd ha (planeOf_mask hi) hu]; rfl
  exact runCommands_cons (hmul hs (spectrumOf_bcur hi) (aq := .scur) rfl)
    (runCommands_cons (hmul (u := t.mulM binary32 (.bcur (levelIndex i)) .scur (.mask (levelIndex i))) hs
      (spectrumOf_bprv hi) (aq := .sprv) rfl) rfl)

theorem runCommands_amplifyBand :
    runCommands [.pamp (BitVec.ofNat 8 (0xA0 + i)) (BitVec.ofNat 8 (0x60 + i)) (BitVec.ofNat 8 (0x80 + i))] t.complete
      = .next (t.amplifyBand binary32 i).complete := by
  refine runCommands_cons ?_ rfl
  rw [exec_pamp, operandsAmp_ok (s := t.complete) (spectrumOf_bprc hi) (spectrumOf_bcur hi) (spectrumOf_bprv hi) hs
    (ne_of_spectrumOf_ne (spectrumOf_bprc hi) (spectrumOf_bcur hi) nofun)
    (ne_of_spectrumOf_ne (spectrumOf_bprc hi) (spectrumOf_bprv hi) nofun)]
  rfl

theorem runCommands_addBand :
    runCommands [.add 0x44 0x44 (BitVec.ofNat 8 (0xA0 + i))] t.complete = .next (t.addBand binary32 i).complete := by
  refine runCommands_cons ?_ rfl
  rw [exec_add, operandsSSS_ok (s := t.complete) (dq := .smod) (aq := .smod) rfl rfl (spectrumOf_bprc hi) hs]; rfl

end

/-- Steps 2 to 4 of R229 of 43. -/
theorem runCommands_bandCommands {k : Nat} (hk : k ≤ Config.pyrMax) :
    runCommands (bandCommands k) t.complete = .next (t.processBands binary32 k).complete := by
  have hbands := runCommands_levels (op := State.extractBand binary32) hs (fun _ _ => rfl)
    fun i (hi : i < k) u hu => runCommands_extractBand hu (hi.trans_le hk)
  have hextracted : (State.forLevels (State.extractBand binary32) k t).session ≠ .uninitialized :=
    (t.forLevels_unchanged (State.extractBand binary32) State.session (fun _ _ => rfl) k).trans_ne hs
  have hamp := runCommands_levels (op := State.amplifyBand binary32) hextracted (fun _ _ => rfl)
    fun i (hi : i < k) u hu => runCommands_amplifyBand hu (hi.trans_le hk)
  have hamplified : (State.forLevels (State.amplifyBand binary32) k
      (State.forLevels (State.extractBand binary32) k t)).session ≠ .uninitialized :=
    (State.forLevels_unchanged _ (State.amplifyBand binary32) State.session (fun _ _ => rfl) k).trans_ne hextracted
  have hadd := runCommands_levels (op := State.addBand binary32)
    (t := (State.forLevels (State.amplifyBand binary32) k
      (State.forLevels (State.extractBand binary32) k t)).zero binary32 .smod)
    hamplified (fun _ _ => rfl) fun i (hi : i < k) u hu => runCommands_addBand hu (hi.trans_le hk)
  rw [bandCommands, List.map_eq_flatMap, List.map_eq_flatMap]
  exact runCommands_append (runCommands_append (runCommands_append hbands hamp)
    (runCommands_cons (exec_zero_complete hamplified) rfl)) hadd

/-- Step 6 of R255 of 44 with a fresh bank. -/
theorem runCommands_decompose_of_fresh (hmax : t.snap.levels ≤ Config.pyrMax) (h : BankFresh t) :
    runCommands (bandCommands t.snap.levels) t.complete = .next (t.decompose binary32).complete := by
  rw [State.decompose_eq, State.refreshBank_of_fresh h]
  exact runCommands_bandCommands hs hmax

/-- Step 6 of R255 of 44 with a stale bank, which GENFILT regenerates. -/
theorem runCommands_decompose_of_stale (hmax : t.snap.levels ≤ Config.pyrMax) (h : ¬ BankFresh t) :
    runCommands (.genFilt :: bandCommands t.snap.levels) t.complete = .next (t.decompose binary32).complete := by
  have hopen : (t.genFilt binary32).session ≠ .uninitialized := (Computes.refl t).genFilt.session.trans_ne hs
  rw [State.decompose_eq, State.refreshBank_of_stale h]
  exact runCommands_cons (exec_genFilt_complete hs) (runCommands_bandCommands hopen hmax)

/-- A steady frame, given its steps 5 and 6. -/
theorem runCommands_frameCommands {middle : List Instr} {u : State} (hbuffers : OnlyBuffers t u)
    (hmiddle : runCommands middle (t.frameSpectra binary32).complete = .next u.complete) :
    runCommands (frameCommands t.snap middle) t = .next (u.frameOutput binary32).complete := by
  have houtput := runCommands_frameOutput (hbuffers.session.trans_ne hs)
  rw [hbuffers.snap] at houtput
  rw [frameCommands, List.append_assoc, List.append_assoc]
  exact runCommands_append (runCommands_append (runCommands_frameSpectra hs) hmiddle) houtput

end

/-! ## FRAME by `STATE` (R255 of 44, R282 of 60) -/

section
variable {s : State}

theorem exec_frame_of_uninitialized (h : s.session = .uninitialized) : exec .frame s = .next (s.abandon .state) := by
  rw [exec, execFrame, Meaning.frame, h]; rfl

theorem exec_frame_of_ready (h : s.session = .ready) : exec .frame s = .next (s.firstFrame binary32).complete := by
  rw [exec, execFrame, Meaning.frame, h]; rfl

theorem exec_frame_of_steadyState (h : s.session = .steadyState) :
    exec .frame s = .next (s.steadyFrame binary32).complete := by
  rw [exec, execFrame, Meaning.frame, h]; rfl

end

/-! ## What FRAME leaves -/

section
variable {α ω : Type} {M : NumSystem α ω} {s u : State α ω}

/-- The first frame writes no plane but `LPREV` and `LOUT` (step 2 of R255 of 44). -/
theorem State.planeElem_firstFrame_of_ne {p : Plane} {idx : Nat} (hidx : validIndex idx)
    (h : ¬ ((p = .lprev ∨ p = .lout) ∧ idx < s.n * s.n)) : (s.firstFrame M).planeElem M p idx = s.planeElem M p idx := by
  have hlout : ¬ (p = .lout ∧ idx < s.n * s.n) := fun ⟨hp, hlt⟩ => h ⟨.inr hp, hlt⟩
  have hlprev : ¬ (p = .lprev ∧ idx < s.n * s.n) := fun ⟨hp, hlt⟩ => h ⟨.inl hp, hlt⟩
  exact (State.planeElem_dispatchP M (s.copyP M .lprev .lin) .lout _ p idx hidx).trans
    ((if_neg hlout).trans ((State.planeElem_dispatchP M s .lprev _ p idx hidx).trans (if_neg hlprev)))

/-- After the first frame both are copies of `LIN`, which the first copy does not write. -/
theorem State.planeAt_firstFrame {x y : Nat} (hx : x < s.n) (hy : y < s.n) :
    (s.firstFrame M).planeAt M .lprev x y = s.planeAt M .lin x y
      ∧ (s.firstFrame M).planeAt M .lout x y = s.planeAt M .lin x y := by
  have hfirst (p : Plane) : (s.copyP M .lprev .lin).planeAt M p x y = _ := State.planeAt_dispatchP M s .lprev _ p hx hy
  have hsecond (p : Plane) : (s.firstFrame M).planeAt M p x y = _ :=
    State.planeAt_dispatchP M (s.copyP M .lprev .lin) .lout _ p hx hy
  exact ⟨(hsecond .lprev).trans ((if_neg nofun).trans ((hfirst .lprev).trans (if_pos rfl))),
    (hsecond .lout).trans ((if_pos rfl).trans ((hfirst .lin).trans (if_neg nofun)))⟩

/-- What both modes of a steady frame leave, given the state after steps 5 and 6 of R255 of 44. -/
theorem State.frameOutput_leaves (hs : s.session = .steadyState) (hbuffers : OnlyBuffers s u)
    (hlin : ∀ {x y}, x < s.n → y < s.n → u.planeAt M .lin x y = s.planeAt M .lin x y) :
    (u.frameOutput M).complete.session = .steadyState ∧ (u.frameOutput M).complete.pp = false
      ∧ (u.frameOutput M).complete.ustep
        = u.ustep + (8 + 2 * s.logn.val + if s.snap.showmag || s.snap.showph then 1 else 0)
      ∧ ∀ x y, x < s.n → y < s.n → (u.frameOutput M).complete.planeAt M .lin x y = s.planeAt M .lin x y
        ∧ (u.frameOutput M).complete.planeAt M .lprev x y = s.planeAt M .lin x y := by
  have hout : OnlyBuffers s (u.frameOutput M) := (macroInvariant_onlyBuffers s).frameOutput hbuffers
  refine ⟨hout.session.trans hs, u.pp_frameOutput, ?_, fun x y hx hy => ?_⟩
  · rw [State.complete_ustep, State.ustep_frameOutput, hbuffers.logn, hbuffers.snap]
  · rw [← hlin hx hy]
    exact State.planeAt_frameOutput (hx.trans_eq hbuffers.n.symm) (hy.trans_eq hbuffers.n.symm)

section
variable [DecidableEq α]

theorem State.ustep_decompose_of_fresh (h : BankFresh s) :
    (s.decompose M).ustep = s.ustep + (4 * s.snap.levels + 1) := by
  rw [State.decompose_eq, State.refreshBank_of_fresh h, State.ustep_processBands]

theorem State.ustep_decompose_of_stale (h : ¬ BankFresh s) :
    (s.decompose M).ustep = s.ustep + (5 * s.snap.levels + 1) := by
  rw [State.decompose_eq, State.refreshBank_of_stale h, State.ustep_processBands, State.ustep_genFilt]
  omega

end

theorem OnlyBuffers.snapKey (h : OnlyBuffers s u) : u.snapKey = s.snapKey := by
  rw [State.snapKey, h.snap]; rfl

/-- Steps 3 and 4 of R255 of 44 leave the bank as fresh or stale as it was. -/
theorem bankFresh_frameSpectra : BankFresh (s.frameSpectra M) ↔ BankFresh s := by
  obtain ⟨hvalid, hkey⟩ := (macroInvariant_bankFlags s.fbValid s.fbKey).frameSpectra (M := M) ⟨rfl, rfl⟩
  rw [BankFresh, BankFresh, hvalid, hkey, (onlyBuffers_frameSpectra s).snapKey]

end

/-! ## The obligations -/

/-- Settles O39: two copies and the new `STATE`. -/
theorem firstFramePassesThrough : Obligations.FirstFramePassesThrough :=
  fun s => ⟨rfl,
    fun hready => ⟨_, exec_frame_of_ready hready, rfl, rfl, rfl, fun _ _ => State.planeAt_firstFrame,
      fun _ _ => State.planeElem_firstFrame_of_ne, rfl⟩,
    nofun, fun _ hclosed => ⟨_, exec_frame_of_uninitialized hclosed, abandonedWith_abandon s .state⟩⟩

/-- Settles O40: the frame's parts, issued as commands one after the other. -/
theorem steadyFrameSingleBand : Obligations.SteadyFrameSingleBand := by
  intro s hs hpyr
  have hopen : s.session ≠ .uninitialized := hs ▸ nofun
  have hspectra : OnlyBuffers s (s.frameSpectra binary32) := onlyBuffers_frameSpectra s
  have hmiddle : OnlyBuffers s ((s.frameSpectra binary32).amplify binary32 .smod .scur .sprv) := ⟨hspectra.rest⟩
  obtain ⟨hsession, hpp, hustep, hplanes⟩ := State.frameOutput_leaves hs hmiddle fun _ _ =>
    hspectra.planeAt_of_planes (s.planes_frameSpectra)
  obtain ⟨hvalid, -⟩ := (macroInvariant_bankFlags s.fbValid s.fbKey).frameOutput (M := binary32)
    (s := (s.frameSpectra binary32).amplify binary32 .smod .scur .sprv)
    ((macroInvariant_bankFlags s.fbValid s.fbKey).frameSpectra ⟨rfl, rfl⟩)
  refine ⟨_, exec_frame_of_steadyState hs, ?_⟩
  rw [State.steadyFrame_of_singleBand hpyr]
  refine ⟨runCommands_frameCommands hopen hmiddle
    (runCommands_cons (exec_pamp_complete (hspectra.session.trans_ne hopen)) rfl), hsession, hpp,
    (State.complete_fbValid _).trans hvalid, ?_, hplanes⟩
  rw [hustep, State.amplify, State.dispatchS_ustep, State.ustep_frameSpectra]
  omega

/-- Settles O41: as O40, with GENFILT among the commands exactly when the refresh of the bank runs it. -/
theorem steadyFramePyramid : Obligations.SteadyFramePyramid := by
  intro s hs hpyr _ hmax key stale
  have hopen : s.session ≠ .uninitialized := hs ▸ nofun
  have hspectra : OnlyBuffers s (s.frameSpectra binary32) := onlyBuffers_frameSpectra s
  have hopen' : (s.frameSpectra binary32).session ≠ .uninitialized := hspectra.session.trans_ne hopen
  have hlevels : (s.frameSpectra binary32).snap.levels = s.snap.levels := congrArg Params.levels hspectra.snap
  have hmiddle : OnlyBuffers s ((s.frameSpectra binary32).decompose binary32) :=
    (computes_frameSpectra s).decompose.toOnlyBuffers
  have hfresh := bankFresh_frameSpectra (M := binary32) (s := s)
  obtain ⟨hsession, hpp, hustep, hplanes⟩ := State.frameOutput_leaves (M := binary32) hs hmiddle fun hx hy =>
    (State.planeAt_decompose_of_ne (p := .lin) (hx.trans_eq hspectra.n.symm) (hy.trans_eq hspectra.n.symm) nofun).trans
      (hspectra.planeAt_of_planes s.planes_frameSpectra)
  obtain ⟨hvalid, hkey⟩ := (macroInvariant_bankFlags true s.snapKey).frameOutput (M := binary32)
    ((macroInvariant_bankFlags true s.snapKey).decompose
      (hspectra.snapKey ▸ (s.frameSpectra binary32).refreshBank_flags (M := binary32)))
  refine ⟨_, exec_frame_of_steadyState hs, ?_⟩
  rw [State.steadyFrame_of_pyramid hpyr]
  refine ⟨fun hstale => ⟨runCommands_frameCommands hopen hmiddle ?_, ?_⟩,
    fun hnot => ⟨runCommands_frameCommands hopen hmiddle ?_, ?_⟩, hsession, hpp,
    (State.complete_fbValid _).trans hvalid, (State.complete_fbKey _).trans hkey, hplanes⟩
  · rw [← hlevels]
    exact runCommands_decompose_of_stale hopen' (hlevels.trans_le hmax) (mt hfresh.mp hstale)
  · rw [hustep, State.ustep_decompose_of_stale (mt hfresh.mp hstale), State.ustep_frameSpectra, hlevels]
    omega
  · rw [← hlevels]
    exact runCommands_decompose_of_fresh hopen' (hlevels.trans_le hmax) (hfresh.mpr (not_not.mp hnot))
  · rw [hustep, State.ustep_decompose_of_fresh (hfresh.mpr (not_not.mp hnot)), State.ustep_frameSpectra,
      hlevels]
    omega

end Sys2Proof.Machine
end

section
/-! The error log of 60_exceptions (O9): whatever a turn does, but for a reset, leaves `ERRLOG` as it was or sets bits of it. -/

namespace Sys2Proof.Machine

variable {α ω : Type} {M : NumSystem α ω} {s t : State α ω}

/-- Every bit of `ERRLOG` that is 1 in `s` is 1 in `t` (R287 of 60). -/
def KeepsErrLog (s t : State α ω) : Prop := ∀ k, s.errLog.getLsbD k = true → t.errLog.getLsbD k = true

theorem keepsErrLog_of_eq (h : t.errLog = s.errLog) : KeepsErrLog s t := fun _ hk => h ▸ hk

/-- "`ERRLOG[e] <- 1`" clears no bit (R35 of 10). -/
theorem keepsErrLog_logError (s : State α ω) (e : Nat) : KeepsErrLog s (s.logError e) := fun k hk => by
  rw [State.logError_errLog, BitVec.getLsbD_or, hk, Bool.true_or]

/-- A register access logs an overrun, a refused window access, or nothing (R284, R285 of 60). -/
theorem OnlyRegisters.keepsErrLog (h : OnlyRegisters s t) : KeepsErrLog s t := by
  unfold KeepsErrLog
  rcases h.log with hlog | hlog | hlog <;> rw [hlog]
  · exact fun _ => id
  · exact keepsErrLog_logError s overrunCode
  · exact keepsErrLog_logError s hostAccCode

/-- A command logs its error when it is abandoned, as a failing INIT is, and else nothing (R250, R252 of 44). -/
theorem CommandEffect.keepsErrLog (h : CommandEffect M s t) : KeepsErrLog s t := by
  cases h with
  | computed hu => exact keepsErrLog_of_eq hu.errLog
  | abandoned e | initFailed e => exact keepsErrLog_logError s e.code
  | filledBrt | filledTwt | firstFrame | started | shutdown => exact keepsErrLog_of_eq rfl

theorem State.hostAccess_keepsErrLog [DecidableEq α] {x : HostAccess ω} (h : s.hostAccess M x = .next t) :
    KeepsErrLog s t := by
  rcases State.hostAccess_cases M h with hreg | ⟨-, w, rfl⟩ | ⟨p, -, rfl⟩ | ⟨p, v, -, rfl⟩ | ⟨q, z, -, rfl⟩
  · exact hreg.keepsErrLog
  · exact keepsErrLog_of_eq rfl
  · exact keepsErrLog_of_eq (State.planeTouched_errLog _ _)
  · exact keepsErrLog_of_eq (State.planeTouched_errLog _ _)
  · exact keepsErrLog_of_eq rfl

/-- Of the five things a step can be, only the reset event clears the log (R287 of 60, R310 of 70). -/
theorem stepOver_keepsErrLog [DecidableEq α] (h : stepOver M s = .next t) (hreset : s.agenda.head? ≠ some .reset) :
    KeepsErrLog s t := by
  rcases stepOver_cases M h with ⟨-, rfl, -⟩ | ⟨-, hrun, -⟩ | ⟨x, -, hx⟩ | ⟨hhead, -⟩ | ⟨ok, -, rfl⟩
  · exact keepsErrLog_of_eq rfl
  · exact (commandEffect_runCurrent hrun).keepsErrLog
  · exact (State.hostAccess_keepsErrLog hx :)
  · exact absurd hhead hreset
  · exact keepsErrLog_of_eq rfl

/-- Settles O9: an error sets a bit of the log, and every turn but a reset logs errors or leaves the log alone. -/
theorem errorLogIsSticky : Obligations.ErrorLogIsSticky := fun _ _ => stepOver_keepsErrLog

end Sys2Proof.Machine
end
